-- ==== Sys2Proof/Word.lean ====
section
/-! DEFINITION. The word types of the CHIP-8 core (00_scope.md R8, R11, R12). All values are unsigned; the hardware has no
signed operation. Types only: every operation on them stands in Machine/ or Decode.lean. -/

namespace Sys2Proof

/-- A general register, a timer, a memory byte or the immediate NN: 8 bits (R8 `XLEN`, `TIMER_BITS`). -/
abbrev Byte := BitVec 8

/-- An instruction word, `pc`, `I` or a return address: 16 bits (R8 `ILEN`, `PC_BITS`, `I_BITS`). -/
abbrev Half := BitVec 16

/-- A register index (the X or Y field), 0 to 15 (R16, R20). -/
abbrev RegIdx := BitVec 4

/-- A key index, 0 to 15 (R29). -/
abbrev KeyIdx := BitVec 4

/-- The 4-bit count N of `DRW` (R76). -/
abbrev Nibble := BitVec 4

/-- The 12-bit address immediate NNN (R76). -/
abbrev Addr12 := BitVec 12

end Sys2Proof
end

