-- ==== Sys2Proof/Syntax.lean ====
section
/-! DEFINITION. The 35 instructions of the opcode map (30_encoding.md R78), one constructor per row of
spec/opcode_table.json, in the table's order, each with the fields its row uses (R75, R76). -/

namespace Sys2Proof

/-- An instruction with its fields. `x` and `y` are register indices, `nn` a byte immediate, `nnn` a 12-bit address, `n` a
4-bit count. -/
inductive Instr where
  /-- `CLS`, 00E0 (R165) -/
  | cls
  /-- `RET`, 00EE (R101) -/
  | ret
  /-- `SYS addr`, 0NNN other than 00E0 and 00EE (R100) -/
  | sys (nnn : Addr12)
  /-- `JP addr`, 1NNN (R102) -/
  | jp (nnn : Addr12)
  /-- `CALL addr`, 2NNN (R103) -/
  | call (nnn : Addr12)
  /-- `SE Vx, byte`, 3XNN (R104) -/
  | seByte (x : RegIdx) (nn : Byte)
  /-- `SNE Vx, byte`, 4XNN (R105) -/
  | sneByte (x : RegIdx) (nn : Byte)
  /-- `SE Vx, Vy`, 5XY0 (R106) -/
  | seReg (x y : RegIdx)
  /-- `LD Vx, byte`, 6XNN (R120) -/
  | ldByte (x : RegIdx) (nn : Byte)
  /-- `ADD Vx, byte`, 7XNN (R121) -/
  | addByte (x : RegIdx) (nn : Byte)
  /-- `LD Vx, Vy`, 8XY0 (R122) -/
  | ldReg (x y : RegIdx)
  /-- `OR Vx, Vy`, 8XY1 (R123) -/
  | orReg (x y : RegIdx)
  /-- `AND Vx, Vy`, 8XY2 (R124) -/
  | andReg (x y : RegIdx)
  /-- `XOR Vx, Vy`, 8XY3 (R125) -/
  | xorReg (x y : RegIdx)
  /-- `ADD Vx, Vy`, 8XY4 (R126) -/
  | addReg (x y : RegIdx)
  /-- `SUB Vx, Vy`, 8XY5 (R127) -/
  | sub (x y : RegIdx)
  /-- `SHR Vx`, 8XY6 (R128); `y` is decoded and not used (R80) -/
  | shr (x y : RegIdx)
  /-- `SUBN Vx, Vy`, 8XY7 (R129) -/
  | subn (x y : RegIdx)
  /-- `SHL Vx`, 8XYE (R130); `y` is decoded and not used (R80) -/
  | shl (x y : RegIdx)
  /-- `SNE Vx, Vy`, 9XY0 (R107) -/
  | sneReg (x y : RegIdx)
  /-- `LD I, addr`, ANNN (R140) -/
  | ldI (nnn : Addr12)
  /-- `JP V0, addr`, BNNN (R108) -/
  | jpV0 (nnn : Addr12)
  /-- `RND Vx, byte`, CXNN (R160) -/
  | rnd (x : RegIdx) (nn : Byte)
  /-- `DRW Vx, Vy, n`, DXYN (R166, R170) -/
  | drw (x y : RegIdx) (n : Nibble)
  /-- `SKP Vx`, EX9E (R180) -/
  | skp (x : RegIdx)
  /-- `SKNP Vx`, EXA1 (R181) -/
  | sknp (x : RegIdx)
  /-- `LD Vx, DT`, FX07 (R190) -/
  | ldVxDT (x : RegIdx)
  /-- `LD Vx, K`, FX0A (R182) -/
  | ldVxK (x : RegIdx)
  /-- `LD DT, Vx`, FX15 (R191) -/
  | ldDT (x : RegIdx)
  /-- `LD ST, Vx`, FX18 (R192) -/
  | ldST (x : RegIdx)
  /-- `ADD I, Vx`, FX1E (R141) -/
  | addI (x : RegIdx)
  /-- `LD F, Vx`, FX29 (R142) -/
  | ldF (x : RegIdx)
  /-- `LD B, Vx`, FX33 (R143) -/
  | ldB (x : RegIdx)
  /-- `LD [I], Vx`, FX55 (R144) -/
  | stRegs (x : RegIdx)
  /-- `LD Vx, [I]`, FX65 (R145) -/
  | ldRegs (x : RegIdx)
  deriving DecidableEq, Repr

end Sys2Proof
end

