-- ==== Sys2Proof/WellFormed.lean ====
section
/-! DEFINITION. Which instructions some word encodes. Every field has exactly the width of its encoding, so one check is
left: 00E0 and 00EE are taken out of the SYS class (30_encoding.md R77, 40_control_flow.md R100). -/

namespace Sys2Proof

/-- `i` is the decoding of some word: `SYS` with NNN = 0E0 or 0EE is not, since those words are `CLS` and `RET`. -/
def Instr.wellFormed : Instr → Bool
  | .sys nnn => nnn != 0x0E0#12 && nnn != 0x0EE#12
  | _ => true

/-- `i` is well formed (R77). -/
abbrev WellFormed (i : Instr) : Prop := i.wellFormed = true

end Sys2Proof
end

