-- ==== Sys2Proof/Decode.lean ====
section
/-! DEFINITION. Decoding and encoding (30_encoding.md R70 to R79): the field extractors, the decoder, total on every word
and on every list of bytes, the encoder written from the same map, and the opcode table as rows of mask and match (R77,
R78). -/

namespace Sys2Proof

/-- `op = w[15:12]` (00_scope.md R16). -/
def opField (w : Half) : BitVec 4 := w.extractLsb' 12 4

/-- `X = w[11:8]` (R16). -/
def xField (w : Half) : RegIdx := w.extractLsb' 8 4

/-- `Y = w[7:4]` (R16). -/
def yField (w : Half) : RegIdx := w.extractLsb' 4 4

/-- `N = w[3:0]` (R16). -/
def nField (w : Half) : Nibble := w.extractLsb' 0 4

/-- `NN = w[7:0]` (R16). -/
def nnField (w : Half) : Byte := w.extractLsb' 0 8

/-- `NNN = w[11:0]` (R16). -/
def nnnField (w : Half) : Addr12 := w.extractLsb' 0 12

/-- Why bytes are no instruction: one name per row of R79, and a list too short to hold a word. A safe reason: the
machine then raises `UnknownOpcode` (R77, R201). -/
inductive Illegal where
  /-- 5XYn with n not 0 -/
  | class5
  /-- 8XYn with n in 8, 9, A, B, C, D, F -/
  | class8
  /-- 9XYn with n not 0 -/
  | class9
  /-- EXnn with nn not 9E and not A1 -/
  | classE
  /-- FXnn with nn not in 07, 0A, 15, 18, 1E, 29, 33, 55, 65 -/
  | classF
  /-- fewer than the two bytes of an instruction word (R70); a fetch never meets it -/
  | truncated
  deriving DecidableEq, Repr

/-- Class 0: the whole word decides (R75, R77). -/
def decodeClass0 (w : Half) : Instr :=
  if w = 0x00E0#16 then .cls
  else if w = 0x00EE#16 then .ret
  else .sys (nnnField w)

/-- Class 8: the low nibble selects one of nine operations (R78 rows 11 to 19, R79). -/
def decodeClass8 (x y : RegIdx) (n : Nibble) : Except Illegal Instr :=
  match n with
  | 0x0#4 => .ok (.ldReg x y)
  | 0x1#4 => .ok (.orReg x y)
  | 0x2#4 => .ok (.andReg x y)
  | 0x3#4 => .ok (.xorReg x y)
  | 0x4#4 => .ok (.addReg x y)
  | 0x5#4 => .ok (.sub x y)
  | 0x6#4 => .ok (.shr x y)
  | 0x7#4 => .ok (.subn x y)
  | 0xE#4 => .ok (.shl x y)
  | _ => .error .class8

/-- Class E: the low byte selects (R78 rows 25, 26, R79). -/
def decodeClassE (x : RegIdx) (nn : Byte) : Except Illegal Instr :=
  match nn with
  | 0x9E#8 => .ok (.skp x)
  | 0xA1#8 => .ok (.sknp x)
  | _ => .error .classE

/-- Class F: the low byte selects (R78 rows 27 to 35, R79). -/
def decodeClassF (x : RegIdx) (nn : Byte) : Except Illegal Instr :=
  match nn with
  | 0x07#8 => .ok (.ldVxDT x)
  | 0x0A#8 => .ok (.ldVxK x)
  | 0x15#8 => .ok (.ldDT x)
  | 0x18#8 => .ok (.ldST x)
  | 0x1E#8 => .ok (.addI x)
  | 0x29#8 => .ok (.ldF x)
  | 0x33#8 => .ok (.ldB x)
  | 0x55#8 => .ok (.stRegs x)
  | 0x65#8 => .ok (.ldRegs x)
  | _ => .error .classF

/-- The decoder: a total function of the 16-bit word alone (R77, R78, R79). -/
def decode (w : Half) : Except Illegal Instr :=
  match opField w with
  | 0x0#4 => .ok (decodeClass0 w)
  | 0x1#4 => .ok (.jp (nnnField w))
  | 0x2#4 => .ok (.call (nnnField w))
  | 0x3#4 => .ok (.seByte (xField w) (nnField w))
  | 0x4#4 => .ok (.sneByte (xField w) (nnField w))
  | 0x5#4 => if nField w = 0x0#4 then .ok (.seReg (xField w) (yField w)) else .error .class5
  | 0x6#4 => .ok (.ldByte (xField w) (nnField w))
  | 0x7#4 => .ok (.addByte (xField w) (nnField w))
  | 0x8#4 => decodeClass8 (xField w) (yField w) (nField w)
  | 0x9#4 => if nField w = 0x0#4 then .ok (.sneReg (xField w) (yField w)) else .error .class9
  | 0xA#4 => .ok (.ldI (nnnField w))
  | 0xB#4 => .ok (.jpV0 (nnnField w))
  | 0xC#4 => .ok (.rnd (xField w) (nnField w))
  | 0xD#4 => .ok (.drw (xField w) (yField w) (nField w))
  | 0xE#4 => decodeClassE (xField w) (nnField w)
  | _ => decodeClassF (xField w) (nnField w)

/-- The instruction word of two bytes in memory order, big-endian (20_memory.md R53, 30_encoding.md R71). -/
def wordOfBytes (hi lo : Byte) : Half := hi ++ lo

/-- The byte at the lower address, `w[15:8]` (R53). -/
def highByte (w : Half) : Byte := w.extractLsb' 8 8

/-- The byte at the higher address, `w[7:0]` (R53). -/
def lowByte (w : Half) : Byte := w.extractLsb' 0 8

/-- Decoding from bytes in memory order: the instruction and the bytes after it (R70, R71). -/
def decodeBytes : List Byte → Except Illegal (Instr × List Byte)
  | hi :: lo :: rest =>
    match decode (wordOfBytes hi lo) with
    | .ok i => .ok (i, rest)
    | .error e => .error e
  | _ => .error .truncated

/-- The word of an instruction (R78): for every well-formed `i`, the word that decodes to it. -/
def encode : Instr → Half
  | .cls => 0x00E0#16
  | .ret => 0x00EE#16
  | .sys nnn => 0x0#4 ++ nnn
  | .jp nnn => 0x1#4 ++ nnn
  | .call nnn => 0x2#4 ++ nnn
  | .seByte x nn => 0x3#4 ++ x ++ nn
  | .sneByte x nn => 0x4#4 ++ x ++ nn
  | .seReg x y => 0x5#4 ++ x ++ y ++ 0x0#4
  | .ldByte x nn => 0x6#4 ++ x ++ nn
  | .addByte x nn => 0x7#4 ++ x ++ nn
  | .ldReg x y => 0x8#4 ++ x ++ y ++ 0x0#4
  | .orReg x y => 0x8#4 ++ x ++ y ++ 0x1#4
  | .andReg x y => 0x8#4 ++ x ++ y ++ 0x2#4
  | .xorReg x y => 0x8#4 ++ x ++ y ++ 0x3#4
  | .addReg x y => 0x8#4 ++ x ++ y ++ 0x4#4
  | .sub x y => 0x8#4 ++ x ++ y ++ 0x5#4
  | .shr x y => 0x8#4 ++ x ++ y ++ 0x6#4
  | .subn x y => 0x8#4 ++ x ++ y ++ 0x7#4
  | .shl x y => 0x8#4 ++ x ++ y ++ 0xE#4
  | .sneReg x y => 0x9#4 ++ x ++ y ++ 0x0#4
  | .ldI nnn => 0xA#4 ++ nnn
  | .jpV0 nnn => 0xB#4 ++ nnn
  | .rnd x nn => 0xC#4 ++ x ++ nn
  | .drw x y n => 0xD#4 ++ x ++ y ++ n
  | .skp x => 0xE#4 ++ x ++ 0x9E#8
  | .sknp x => 0xE#4 ++ x ++ 0xA1#8
  | .ldVxDT x => 0xF#4 ++ x ++ 0x07#8
  | .ldVxK x => 0xF#4 ++ x ++ 0x0A#8
  | .ldDT x => 0xF#4 ++ x ++ 0x15#8
  | .ldST x => 0xF#4 ++ x ++ 0x18#8
  | .addI x => 0xF#4 ++ x ++ 0x1E#8
  | .ldF x => 0xF#4 ++ x ++ 0x29#8
  | .ldB x => 0xF#4 ++ x ++ 0x33#8
  | .stRegs x => 0xF#4 ++ x ++ 0x55#8
  | .ldRegs x => 0xF#4 ++ x ++ 0x65#8

/-- An instruction as its two bytes in memory order (R53, R70). -/
def encodeBytes (i : Instr) : List Byte := [highByte (encode i), lowByte (encode i)]

/-- The instruction the decoder reads from the `nbits` low bits of `w` as one instruction word; the bits above are 0. -/
def decodeTableWord (nbits w : Nat) : Option Instr :=
  let word : Half := BitVec.ofNat 16 (w % 2 ^ nbits)
  match decodeBytes [highByte word, lowByte word] with
  | .ok (i, _) => some i
  | .error _ => none

/-- One row of the opcode map: the row is selected when `w & mask = pattern` (R78). -/
structure OpcodeRow where
  mask : Half
  pattern : Half
  deriving DecidableEq, Repr

/-- The row of R78 an instruction stands in. -/
def rowOf : Instr → OpcodeRow
  | .cls => ⟨0xFFFF#16, 0x00E0#16⟩
  | .ret => ⟨0xFFFF#16, 0x00EE#16⟩
  | .sys _ => ⟨0xF000#16, 0x0000#16⟩
  | .jp _ => ⟨0xF000#16, 0x1000#16⟩
  | .call _ => ⟨0xF000#16, 0x2000#16⟩
  | .seByte _ _ => ⟨0xF000#16, 0x3000#16⟩
  | .sneByte _ _ => ⟨0xF000#16, 0x4000#16⟩
  | .seReg _ _ => ⟨0xF00F#16, 0x5000#16⟩
  | .ldByte _ _ => ⟨0xF000#16, 0x6000#16⟩
  | .addByte _ _ => ⟨0xF000#16, 0x7000#16⟩
  | .ldReg _ _ => ⟨0xF00F#16, 0x8000#16⟩
  | .orReg _ _ => ⟨0xF00F#16, 0x8001#16⟩
  | .andReg _ _ => ⟨0xF00F#16, 0x8002#16⟩
  | .xorReg _ _ => ⟨0xF00F#16, 0x8003#16⟩
  | .addReg _ _ => ⟨0xF00F#16, 0x8004#16⟩
  | .sub _ _ => ⟨0xF00F#16, 0x8005#16⟩
  | .shr _ _ => ⟨0xF00F#16, 0x8006#16⟩
  | .subn _ _ => ⟨0xF00F#16, 0x8007#16⟩
  | .shl _ _ => ⟨0xF00F#16, 0x800E#16⟩
  | .sneReg _ _ => ⟨0xF00F#16, 0x9000#16⟩
  | .ldI _ => ⟨0xF000#16, 0xA000#16⟩
  | .jpV0 _ => ⟨0xF000#16, 0xB000#16⟩
  | .rnd _ _ => ⟨0xF000#16, 0xC000#16⟩
  | .drw _ _ _ => ⟨0xF000#16, 0xD000#16⟩
  | .skp _ => ⟨0xF0FF#16, 0xE09E#16⟩
  | .sknp _ => ⟨0xF0FF#16, 0xE0A1#16⟩
  | .ldVxDT _ => ⟨0xF0FF#16, 0xF007#16⟩
  | .ldVxK _ => ⟨0xF0FF#16, 0xF00A#16⟩
  | .ldDT _ => ⟨0xF0FF#16, 0xF015#16⟩
  | .ldST _ => ⟨0xF0FF#16, 0xF018#16⟩
  | .addI _ => ⟨0xF0FF#16, 0xF01E#16⟩
  | .ldF _ => ⟨0xF0FF#16, 0xF029#16⟩
  | .ldB _ => ⟨0xF0FF#16, 0xF033#16⟩
  | .stRegs _ => ⟨0xF0FF#16, 0xF055#16⟩
  | .ldRegs _ => ⟨0xF0FF#16, 0xF065#16⟩

/-- Rows 1 to 12 of the opcode map (R78). -/
def opcodeTableLow : List OpcodeRow :=
  [⟨0xFFFF#16, 0x00E0#16⟩,
   ⟨0xFFFF#16, 0x00EE#16⟩,
   ⟨0xF000#16, 0x0000#16⟩,
   ⟨0xF000#16, 0x1000#16⟩,
   ⟨0xF000#16, 0x2000#16⟩,
   ⟨0xF000#16, 0x3000#16⟩,
   ⟨0xF000#16, 0x4000#16⟩,
   ⟨0xF00F#16, 0x5000#16⟩,
   ⟨0xF000#16, 0x6000#16⟩,
   ⟨0xF000#16, 0x7000#16⟩,
   ⟨0xF00F#16, 0x8000#16⟩,
   ⟨0xF00F#16, 0x8001#16⟩]

/-- Rows 13 to 24 of the opcode map (R78). -/
def opcodeTableMid : List OpcodeRow :=
  [⟨0xF00F#16, 0x8002#16⟩,
   ⟨0xF00F#16, 0x8003#16⟩,
   ⟨0xF00F#16, 0x8004#16⟩,
   ⟨0xF00F#16, 0x8005#16⟩,
   ⟨0xF00F#16, 0x8006#16⟩,
   ⟨0xF00F#16, 0x8007#16⟩,
   ⟨0xF00F#16, 0x800E#16⟩,
   ⟨0xF00F#16, 0x9000#16⟩,
   ⟨0xF000#16, 0xA000#16⟩,
   ⟨0xF000#16, 0xB000#16⟩,
   ⟨0xF000#16, 0xC000#16⟩,
   ⟨0xF000#16, 0xD000#16⟩]

/-- Rows 25 to 35 of the opcode map (R78). -/
def opcodeTableHigh : List OpcodeRow :=
  [⟨0xF0FF#16, 0xE09E#16⟩,
   ⟨0xF0FF#16, 0xE0A1#16⟩,
   ⟨0xF0FF#16, 0xF007#16⟩,
   ⟨0xF0FF#16, 0xF00A#16⟩,
   ⟨0xF0FF#16, 0xF015#16⟩,
   ⟨0xF0FF#16, 0xF018#16⟩,
   ⟨0xF0FF#16, 0xF01E#16⟩,
   ⟨0xF0FF#16, 0xF029#16⟩,
   ⟨0xF0FF#16, 0xF033#16⟩,
   ⟨0xF0FF#16, 0xF055#16⟩,
   ⟨0xF0FF#16, 0xF065#16⟩]

/-- The opcode map as rows of mask and pattern, in the table's order: the first row that matches a word wins (R77, R78). -/
def opcodeTable : List OpcodeRow := opcodeTableLow ++ opcodeTableMid ++ opcodeTableHigh

/-- Whether a row is selected by a word (R78). -/
def OpcodeRow.selects (r : OpcodeRow) (w : Half) : Bool := w &&& r.mask == r.pattern

end Sys2Proof
end

