-- ==== Sys2Proof/Config.lean ====
section
/-! DEFINITION. The constants of the hardware (00_scope.md R8, R9), the defaults of its open parameters (R10, 10_state.md
R33) and its one free value, the random byte (43_random.md R160).

The policy constants of R9 are constants of this hardware, not run-time switches; each is embodied in one meaning:
`SHIFT_FLAG_IS_BIT` (true) in Flags.lean `shrFlag` and `shlFlag`; `DRAW_WRAPS` (true) in Machine/Display.lean
`rasterBit`; `SUB_FLAG_IS_NOT_BORROW` (true) in Flags.lean `notBorrow`; `ADD_I_SETS_FLAG` (false) and `ADD_I_MODULUS`
(2^16) in `execAddI`; `SHIFT_SOURCE_IS_VY` (false) in `execShr` and `execShl`; `LOADSTORE_MOVES_I` (false) in `execStRegs`
and `execLdRegs`; `LOGIC_WRITES_VF` (false) in `execOrReg`, `execAndReg`, `execXorReg`; `JUMP_OFFSET_REG` (V0) in
`execJpV0`; `STRICT_PC` (true) in Ops.lean `fetchable`; `SYS_FAULTS` (true) in `execSys`; `PROTECT_LOW_MEM` (false) in
Ops.lean `Memory.write`; `KEY_INDEX_MASK` (0x0F) in Operands.lean `lowNibble`. -/

namespace Sys2Proof.Config

/-- `MEM_SIZE` (R8): bytes of memory. -/
abbrev memSize : Nat := 4096

/-- `LOAD_ADDR` (R8): where the program image and the pc start. -/
abbrev loadAddr : Nat := 0x200

/-- The longest image that fits, 4096 - 0x200 (70_reset_and_hazards.md R242). -/
abbrev maxImage : Nat := 3584

/-- `STACK_DEPTH` (R8): return-stack entries. -/
abbrev stackDepth : Nat := 16

/-- The random source (43_random.md R160, 92_eei_decisions.md D25): the byte it answers at its n-th draw. A FREE VALUE:
nothing constrains it (log 3: DESIGN CHOICE, safe). -/
opaque randomByte : Nat → Byte

/-- The default of `FONT_BASE` (R10); an open parameter, held in the state's memory (log 4: DESIGN CHOICE, unsafe for claims
on the default). -/
abbrev defaultFontBase : Half := 0x050#16

/-- The default of `FONT_DATA`, digits 0 to 7 (10_state.md R33). -/
def defaultGlyphsLow : Vector (Vector Byte 5) 8 :=
  #v[#v[0xF0, 0x90, 0x90, 0x90, 0xF0], #v[0x20, 0x60, 0x20, 0x20, 0x70],
     #v[0xF0, 0x10, 0xF0, 0x80, 0xF0], #v[0xF0, 0x10, 0xF0, 0x10, 0xF0],
     #v[0x90, 0x90, 0xF0, 0x10, 0x10], #v[0xF0, 0x80, 0xF0, 0x10, 0xF0],
     #v[0xF0, 0x80, 0xF0, 0x90, 0xF0], #v[0xF0, 0x10, 0x20, 0x40, 0x40]]

/-- The default of `FONT_DATA`, digits 8 to F (10_state.md R33). -/
def defaultGlyphsHigh : Vector (Vector Byte 5) 8 :=
  #v[#v[0xF0, 0x90, 0xF0, 0x90, 0xF0], #v[0xF0, 0x90, 0xF0, 0x10, 0xF0],
     #v[0xF0, 0x90, 0xF0, 0x90, 0x90], #v[0xE0, 0x90, 0xE0, 0x90, 0xE0],
     #v[0xF0, 0x80, 0x80, 0x80, 0xF0], #v[0xE0, 0x90, 0x90, 0x90, 0xE0],
     #v[0xF0, 0x80, 0xF0, 0x80, 0xF0], #v[0xF0, 0x80, 0xF0, 0x80, 0x80]]

/-- The default of `FONT_DATA`: sixteen 5-byte digit sprites (R10, R33). -/
def defaultGlyphs : Vector (Vector Byte 5) 16 := defaultGlyphsLow ++ defaultGlyphsHigh

end Sys2Proof.Config
end

