-- ==== Sys2Proof/Machine/State.lean ====
section
/-! DEFINITION. The machine's state as plain data (10_state.md R20 to R31), the inputs and outputs the spec gives it (R36 to
R39), the open parameters (00_scope.md R10), the reasons a step can stop, and the state after reset (R41). -/

namespace Sys2Proof.Machine

/-- The run state of the core (10_state.md R30). -/
inductive RunState where
  /-- the core may take a step -/
  | running
  /-- the core has executed `LD Vx, K` with X = x and waits for a key press (45_input.md R183) -/
  | awaitKey (x : RegIdx)
  /-- a fatal error has occurred; left only by reset (60_exceptions.md R209) -/
  | halted
  deriving DecidableEq, Repr

/-- The closed list of fatal errors (60_exceptions.md R200). -/
inductive ErrKind where
  | unknownOpcode
  | stackOverflow
  | stackUnderflow
  | addressOutOfRange
  | programImageTooLarge
  deriving DecidableEq, Repr

/-- The error record (10_state.md R31, 60_exceptions.md R206, R211): the kind, the pc of the faulting instruction and the
information word. -/
structure ErrRecord where
  kind : ErrKind
  pc : Half
  info : Nat
  deriving DecidableEq, Repr

/-- The open parameters `FONT_BASE` and `FONT_DATA` (00_scope.md R10, 10_state.md R33). No event writes them (log 4: DESIGN
CHOICE, unsafe for claims on the default). -/
structure Font where
  base : Half
  glyphs : Vector (Vector Byte 5) 16
  deriving DecidableEq, Repr

/-- `mem` (10_state.md R27, 20_memory.md R50): the font parameters, which say what the reset contents are, and the bytes
that differ from the reset contents, as address and byte, addresses strictly rising. -/
structure Memory where
  font : Font
  cells : List Host.Cell
  deriving DecidableEq, Repr

/-- The frame buffer `fb[y][x]`, 32 rows of 64 pixels, true = on (10_state.md R28, 44_display.md R167). -/
abbrev FrameBuffer := Vector (Vector Bool 64) 32

/-- The atomic events of the four agents (10_state.md R40). -/
inductive Event where
  /-- one core step (30_encoding.md R73) -/
  | core
  /-- one tick of the timer unit (60_exceptions.md R218) -/
  | tick
  /-- the input source: key k goes down (10_state.md R36) -/
  | keyPress (k : KeyIdx)
  /-- the input source: key k goes up (R36) -/
  | keyRelease (k : KeyIdx)
  /-- the host: reset (70_reset_and_hazards.md R240) -/
  | reset
  /-- the host: load a program image (R242, R243) -/
  | load (image : List Byte)
  /-- the host: start (R244) -/
  | start
  deriving DecidableEq, Repr

/-- The machine state. The fields from `V` to `err` are the spec's architectural state; `started` and `displayUpdates`
render the spec's host control and output event; `schedule`, `rng` and `draws` are the model's own: the inputs of the
environment as plain data. -/
structure State where
  /-- general registers V0 to VF; VF is `V[15]` (R20, R21) -/
  V : Vector Byte 16
  /-- the address register (R23) -/
  I : Half
  /-- the program counter (R22) -/
  pc : Half
  /-- the stack pointer: the count of occupied stack entries (R24) -/
  sp : BitVec 8
  /-- the return stack (R24) -/
  stack : Vector Half 16
  /-- the delay timer (R26) -/
  DT : Byte
  /-- the sound timer (R26) -/
  ST : Byte
  /-- memory (R27) -/
  mem : Memory
  /-- the frame buffer (R28) -/
  fb : FrameBuffer
  /-- the keypad levels, true = down (R29) -/
  keys : Vector Bool 16
  /-- the run state (R30) -/
  run : RunState
  /-- the error record, none until a fault (R31) -/
  err : Option ErrRecord
  /-- whether the host has started the core since reset (R39, R240, R244; log 1: DEDUCED, safe) -/
  started : Bool
  /-- how many `display_update` events have been raised since reset (R38; log 11: DESIGN CHOICE, safe) -/
  displayUpdates : Nat
  /-- MODEL'S OWN: the events to come, head first; when it is empty it is the core's turn (R40; log 2: DESIGN CHOICE,
  unsafe for claims that fix the schedule) -/
  schedule : List Event
  /-- MODEL'S OWN: the bytes the random source answers first (R37, R160; log 3: DESIGN CHOICE, safe) -/
  rng : List Byte
  /-- MODEL'S OWN: how many bytes have been drawn, the argument of `Config.randomByte` (R160; log 3) -/
  draws : Nat
  deriving DecidableEq, Repr

/-- Why a step stops. No instruction stops on data a run can hold: the spec's own errors are next states (R206, log 6:
DESIGN CHOICE, safe). -/
inductive Fault where
  /-- Raised by `key_press(k)` when key k is already down, an event the input source may not raise (R36, R223). Safe. -/
  | keyAlreadyDown (k : KeyIdx)
  /-- Raised by `key_release(k)` when key k is already up, an event the input source may not raise (R36, R223). Safe. -/
  | keyAlreadyUp (k : KeyIdx)
  /-- Raised by a tick or a key event before `start`, when these agents are not enabled (R244). Safe. -/
  | notStarted
  /-- Raised by `load` or `start` inside a run, and by `load` after a refused load: the host may not do so (R39, R40, R243).
  Safe. -/
  | hostNotEnabled
  /-- Raised by `RET` when `sp` is above 16, where the entry to pop does not exist; no run reaches such a state (R24,
  log 7: DESIGN CHOICE, safe). Safe. -/
  | stackPointerOutOfRange
  deriving DecidableEq, Repr

/-- Why an instruction has no meaning. -/
inductive Refusal where
  /-- Raised by an arm of `exec` whose instruction has no meaning yet; no arm does. Safe. -/
  | notModelled (mnemonic : String)
  deriving DecidableEq, Repr

/-- The default font parameters (R10, R33). -/
def Font.default : Font := ⟨Config.defaultFontBase, Config.defaultGlyphs⟩

/-- The state after reset, an empty load and `start`: the table of R41, which is the state at the first core step
(70_reset_and_hazards.md R244; log 1). The host's `reset` event leaves the same state with `started` false. -/
def State.reset : State where
  V := Vector.replicate 16 0
  I := 0
  pc := 0x200
  sp := 0
  stack := Vector.replicate 16 0
  DT := 0
  ST := 0
  mem := ⟨Font.default, []⟩
  fb := Vector.replicate 32 (Vector.replicate 64 false)
  keys := Vector.replicate 16 false
  run := .running
  err := none
  started := true
  displayUpdates := 0
  schedule := []
  rng := []
  draws := 0

end Sys2Proof.Machine
end

