-- ==== Sys2Proof/Machine/Ops.lean ====
section
/-! DEFINITION. The named operations over memory, registers, stack, frame buffer and keypad, the fetch, the range check,
the draw of a random byte, and TAKING A FAULT as one operation (60_exceptions.md R206). There is no return from a fault
(R209): HALTED is left only by the host's reset, `State.hostReset` in Machine/Events.lean. -/

namespace Sys2Proof.Machine

/-! ### Memory (20_memory.md) -/

/-- The reset content of `mem` at address `a` (10_state.md R41): the font table at `FONT_BASE`, five bytes a digit in digit
order (R33), zero everywhere else. What an unlisted address reads as (log 5: DESIGN CHOICE, safe). -/
def Font.resetByte (f : Font) (a : Nat) : Byte :=
  if f.base.toNat ≤ a ∧ a < f.base.toNat + 80 then
    let d := a - f.base.toNat
    ((f.glyphs[d / 5]?).bind (fun g => g[d % 5]?)).getD 0
  else 0

/-- `FONT_BASE + 80 <= 0x200` (00_scope.md R10). -/
def Font.wf (f : Font) : Bool := f.base.toNat + 80 ≤ 0x200

/-- The byte listed for `a`, if one is. -/
def lookupCell (a : Nat) : List Host.Cell → Option Byte
  | [] => none
  | (c, v) :: rest => if c = a then some v else lookupCell a rest

/-- `mem[a]`: the listed byte, or the reset content (R56, R59). Total; every access is range-checked before it (R52). -/
def Memory.read (m : Memory) (a : Nat) : Byte := (lookupCell a m.cells).getD (m.font.resetByte a)

/-- Put `b` at `a` in a list of cells in rising order; `bg` is what `a` reads as when unlisted, so that value is not
listed. -/
def putCell (bg : Byte) (a : Nat) (b : Byte) : List Host.Cell → List Host.Cell
  | [] => if b = bg then [] else [(a, b)]
  | (c, v) :: rest =>
    if a < c then (if b = bg then (c, v) :: rest else (a, b) :: (c, v) :: rest)
    else if a = c then (if b = bg then rest else (a, b) :: rest)
    else (c, v) :: putCell bg a b rest

/-- `mem[a] <- b` (00_scope.md R14). Addresses below 0x200 are written like any other (20_memory.md R58). There is no
address of 4096 or more (R50), and every caller has checked its range (R52): such a write changes nothing. -/
def Memory.write (m : Memory) (a : Nat) (b : Byte) : Memory :=
  if a < Config.memSize then { m with cells := putCell (m.font.resetByte a) a b m.cells } else m

/-- `mem[a + k] <- bytes[k]` for every k, lowest address first (R54, R56). -/
def Memory.writeBytes (m : Memory) (a : Nat) : List Byte → Memory
  | [] => m
  | b :: bs => (m.write a b).writeBytes (a + 1) bs

/-- The addresses of the cells rise strictly from `lo` on and stay below 4096, and no cell holds its reset content. -/
def cellsWf (f : Font) : Nat → List Host.Cell → Bool
  | _, [] => true
  | lo, (c, v) :: rest => lo ≤ c && c < Config.memSize && v != f.resetByte c && cellsWf f (c + 1) rest

/-- The canonical form of memory: equal contents are equal data. -/
def Memory.wf (m : Memory) : Bool := cellsWf m.font 0 m.cells

/-- The range check of an access to `count` bytes from `base` on, in unbounded naturals (R52, R146): the lowest address out
of range, if there is one. An access to 0 bytes never fails. -/
def rangeError (base count : Nat) : Option Nat :=
  if 0 < count ∧ base + count - 1 > 4095 then some (max base 4096) else none

/-! ### Registers (10_state.md R20 to R26) -/

/-- `V[x]` (00_scope.md R13). -/
def State.getV (s : State) (x : RegIdx) : Byte := s.V.get x.toFin

/-- `V[x] <- b` (R13). No register is hard-wired (R20). -/
def State.setV (s : State) (x : RegIdx) (b : Byte) : State :=
  { s with V := s.V.set x.toNat b x.isLt }

/-- `VF`, the flag register, is `V[15]` (R21). -/
abbrev regF : RegIdx := 0xF#4

/-- `I <- a` (R23). -/
def State.setI (s : State) (a : Half) : State := { s with I := a }

/-- `pc <- a` (R22). -/
def State.jump (s : State) (a : Half) : State := { s with pc := a }

/-- `pc <- pc + 2`, the default end of an instruction (30_encoding.md R73). -/
def State.advance (s : State) : State := s.jump (s.pc + 2)

/-- A conditional skip: `pc <- pc + 4` when `cond`, else `pc <- pc + 2`; the skipped word is not looked at
(40_control_flow.md R104 to R107, R109). -/
def State.skipIf (s : State) (cond : Bool) : State := s.jump (if cond then s.pc + 4 else s.pc + 2)

/-- `DT <- b` (R26). -/
def State.setDT (s : State) (b : Byte) : State := { s with DT := b }

/-- `ST <- b` (R26). -/
def State.setST (s : State) (b : Byte) : State := { s with ST := b }

/-- `mem <- m` (R27). -/
def State.setMem (s : State) (m : Memory) : State := { s with mem := m }

/-- `run <- r` (R30). -/
def State.setRun (s : State) (r : RunState) : State := { s with run := r }

/-! ### The return stack (10_state.md R24, R25) -/

/-- `stack[k]`, for k below 16. -/
def State.stackAt (s : State) (k : Nat) : Half := (s.stack[k]?).getD 0

/-- All 16 entries are occupied (R24, R25). -/
abbrev State.stackFull (s : State) : Prop := Config.stackDepth ≤ s.sp.toNat

/-- No entry is occupied (R24, R25). -/
abbrev State.stackEmpty (s : State) : Prop := s.sp = 0

/-- `stack[sp] <- a; sp <- sp + 1`, after the check for overflow (R25). -/
def State.push (s : State) (a : Half) : State :=
  { s with stack := s.stack.setIfInBounds s.sp.toNat a, sp := s.sp + 1 }

/-- `sp <- sp - 1`, after the check for underflow; the popped entry keeps its content (R25). -/
def State.dropTop (s : State) : State := { s with sp := s.sp - 1 }

/-! ### Frame buffer (10_state.md R28, R38) -/

/-- `fb[y][x]` (R28). -/
def FrameBuffer.pixel (fb : FrameBuffer) (x : Fin 64) (y : Fin 32) : Bool := (fb.get y).get x

/-- `fb[y][x] <- fb[y][x] ^ 1` (44_display.md R166). -/
def FrameBuffer.flip (fb : FrameBuffer) (x : Fin 64) (y : Fin 32) : FrameBuffer :=
  fb.set y.val ((fb.get y).set x.val (!(FrameBuffer.pixel fb x y)) x.isLt) y.isLt

/-- Every pixel off (R165). -/
def FrameBuffer.clear : FrameBuffer := Vector.replicate 32 (Vector.replicate 64 false)

/-- `fb <- f`, then the `display_update` event at the end of `CLS` and `DRW` (R38). -/
def State.showFb (s : State) (f : FrameBuffer) : State :=
  { s with fb := f, displayUpdates := s.displayUpdates + 1 }

/-! ### Keypad (10_state.md R29) -/

/-- `keys[k]` (R29). -/
def State.keyDown (s : State) (k : KeyIdx) : Bool := s.keys.get k.toFin

/-- `keys[k] <- b`; the input source alone does this (R29, R36). -/
def State.setKey (s : State) (k : KeyIdx) (b : Bool) : State :=
  { s with keys := s.keys.set k.toNat b k.isLt }

/-! ### Outputs (10_state.md R38) -/

/-- `sound_on`: 1 exactly when `ST` is not 0 (R38, 60_exceptions.md R219). -/
def State.soundOn (s : State) : Bool := s.ST != 0

/-- `halted`: 1 exactly when `run` = HALTED (R38). -/
def State.isHalted (s : State) : Bool := s.run == .halted

/-! ### Taking a fault (60_exceptions.md R206, R207) -/

/-- The numeric code of an error (R200). -/
def ErrKind.code : ErrKind → Nat
  | .unknownOpcode => 1
  | .stackOverflow => 2
  | .stackUnderflow => 3
  | .addressOutOfRange => 4
  | .programImageTooLarge => 5

/-- The error port: the code of the record's kind, 0 for no error (R200). -/
def State.errCode (s : State) : Nat :=
  match s.err with
  | none => 0
  | some r => r.kind.code

/-- Fault entry: `run <- HALTED; err <- (E, pc, info)`, nothing else (R206); `pc` stays at the faulting instruction
(R207). -/
def State.raise (s : State) (e : ErrKind) (info : Nat) : State :=
  { s with run := .halted, err := some ⟨e, s.pc, info⟩ }

/-- Check the whole range of a data access before anything is read or written (R52): on failure the instruction raises
`AddressOutOfRange` and does nothing else, otherwise it ends in `done`. -/
def State.ifInRange (s : State) (base count : Nat) (done : State) : State :=
  match rangeError base count with
  | some a => s.raise .addressOutOfRange a
  | none => done

/-! ### Fetch (30_encoding.md R71, R72) -/

/-- The fetch check: pc even and in 0x200 to 4095 (R72). -/
def fetchable (pc : Half) : Bool := pc.toNat % 2 == 0 && 0x200 ≤ pc.toNat && pc.toNat < 4096

/-- The two bytes at `pc`, lowest address first (R71). -/
def State.fetchBytes (s : State) : List Byte := [s.mem.read s.pc.toNat, s.mem.read (s.pc.toNat + 1)]

/-- The instruction word at `pc`, big-endian (R53, R71). -/
def State.fetchWord (s : State) : Half :=
  wordOfBytes (s.mem.read s.pc.toNat) (s.mem.read (s.pc.toNat + 1))

/-! ### The random source (43_random.md R160, 10_state.md R37) -/

/-- The byte the random source answers next: the first of the bytes the state lists, or a free value (log 3: DESIGN CHOICE,
safe). -/
def State.randomByte (s : State) : Byte :=
  match s.rng with
  | [] => Config.randomByte s.draws
  | r :: _ => r

/-- The random source after it has answered once. -/
def State.afterDraw (s : State) : State := { s with rng := s.rng.tail, draws := s.draws + 1 }

end Sys2Proof.Machine
end

