-- ==== Sys2Proof/Machine/Flags.lean ====
section
/-! DEFINITION. The values the flag-writing instructions put in VF, each exactly 0 or 1 (10_state.md R21, 41_alu.md R131),
and the order of the two register writes (R132). -/

namespace Sys2Proof.Machine

/-- `cond ? 1 : 0` as a flag value (R21). -/
def flagOf (cond : Bool) : Byte := if cond then 1 else 0

/-- The carry of `a + b`: 1 when the sum exceeds 255 (R126, R131). -/
def carryFlag (a b : Byte) : Byte := flagOf (a.toNat + b.toNat > 255)

/-- The flag of `a - b`: 1 when no borrow occurs, that is a >= b (R127, R129, R131). -/
def notBorrow (a b : Byte) : Byte := flagOf (a.toNat ≥ b.toNat)

/-- The bit shifted out by a right shift, bit 0 (R128). -/
def shrFlag (a : Byte) : Byte := flagOf (a.getLsbD 0)

/-- The bit shifted out by a left shift, bit 7 (R130). -/
def shlFlag (a : Byte) : Byte := flagOf (a.getLsbD 7)

/-- `V[X] <- result; VF <- flag`: the flag write is last, so with X = 15 the result is lost (R132). -/
def State.setResultAndFlag (s : State) (x : RegIdx) (result flag : Byte) : State :=
  (s.setV x result).setV regF flag

end Sys2Proof.Machine
end

