-- ==== Sys2Proof/Machine/Operands.lean ====
section
/-! DEFINITION. The operand forms (30_encoding.md R75, R76, 42_addressing_memory.md R146): register operands are
`State.getV`; the rest are the extended immediates, the masked index of a register, and the blocks of registers and memory
that the bulk instructions name. -/

namespace Sys2Proof.Machine

/-- `zext_16(NNN)` (R76). -/
def zextAddr (nnn : Addr12) : Half := nnn.setWidth 16

/-- `zext_16(v)` of a byte (R108, R141). -/
def zextByte (b : Byte) : Half := b.setWidth 16

/-- A key index as a register value, zero-extended to 8 bits (10_state.md R36). -/
def zextKey (k : KeyIdx) : Byte := k.setWidth 8

/-- `v & 0x0F`: the key or digit a register selects (`KEY_INDEX_MASK`, 45_input.md R180, R181, R142). -/
def lowNibble (b : Byte) : BitVec 4 := b.extractLsb' 0 4

/-- `FONT_BASE + 5 * digit` (42_addressing_memory.md R142). -/
def digitAddress (f : Font) (d : BitVec 4) : Half := f.base + 5#16 * d.setWidth 16

/-- The effective address of element 0 of a data access: `I`, as an unbounded natural (R146). -/
def State.base (s : State) : Nat := s.I.toNat

/-- The bytes `V[0]` to `V[x]` in order (R144). -/
def State.regsTo (s : State) (x : RegIdx) : List Byte :=
  (List.range (x.toNat + 1)).map (fun k => s.getV (BitVec.ofNat 4 k))

/-- `n` bytes of memory from `a` on, lowest address first (`MemRead`, 00_scope.md R14). -/
def Memory.readBytes (m : Memory) (a n : Nat) : List Byte := (List.range n).map (fun k => m.read (a + k))

/-- `V[k] <- bytes[k]` from register `k` on, in order (R145). -/
def State.setRegsFrom (s : State) (k : Nat) : List Byte → State
  | [] => s
  | b :: bs => (s.setV (BitVec.ofNat 4 k) b).setRegsFrom (k + 1) bs

/-- The decimal digits of a byte: hundreds, tens, ones (R143). -/
def decimalDigits (a : Byte) : List Byte :=
  [BitVec.ofNat 8 (a.toNat / 100), BitVec.ofNat 8 (a.toNat / 10 % 10), BitVec.ofNat 8 (a.toNat % 10)]

end Sys2Proof.Machine
end

