-- ==== Sys2Proof/Machine/AddressMemory.lean ====
section
/-! DEFINITION. The address-register and memory instructions (42_addressing_memory.md R140 to R146). No access changes `I`
(R146). The whole range is checked before any byte moves (20_memory.md R52). -/

namespace Sys2Proof.Machine

/-- `LD I, addr`: `I <- zext_16(NNN)` (R140). -/
def execLdI (nnn : Addr12) (s : State) : Host.Outcome State Fault Refusal :=
  .next (s.setI (zextAddr nnn)).advance

/-- `ADD I, Vx`: modulo 2^16, VF never written (R141). -/
def execAddI (x : RegIdx) (s : State) : Host.Outcome State Fault Refusal :=
  .next (s.setI (s.I + zextByte (s.getV x))).advance

/-- `LD F, Vx`: `I <- FONT_BASE + 5 * (V[X] & 0x0F)` (R142). -/
def execLdF (x : RegIdx) (s : State) : Host.Outcome State Fault Refusal :=
  .next (s.setI (digitAddress s.mem.font (lowNibble (s.getV x)))).advance

/-- `LD B, Vx`: the three decimal digits of VX at I, I + 1, I + 2 (R143). -/
def execLdB (x : RegIdx) (s : State) : Host.Outcome State Fault Refusal :=
  .next (s.ifInRange s.base 3
    (s.setMem (s.mem.writeBytes s.base (decimalDigits (s.getV x)))).advance)

/-- `LD [I], Vx`: registers 0 to X stored from I on (R144). -/
def execStRegs (x : RegIdx) (s : State) : Host.Outcome State Fault Refusal :=
  .next (s.ifInRange s.base (x.toNat + 1)
    (s.setMem (s.mem.writeBytes s.base (s.regsTo x))).advance)

/-- `LD Vx, [I]`: registers 0 to X loaded from I on (R145). -/
def execLdRegs (x : RegIdx) (s : State) : Host.Outcome State Fault Refusal :=
  .next (s.ifInRange s.base (x.toNat + 1)
    (s.setRegsFrom 0 (s.mem.readBytes s.base (x.toNat + 1))).advance)

end Sys2Proof.Machine
end

