-- ==== Sys2Proof/Machine/Alu.lean ====
section
/-! DEFINITION. Register transfer, arithmetic and logic (41_alu.md R120 to R132). Operands are read from `s` before any
write; where there is a flag it is written last (R132). All end with `pc <- pc + 2`. -/

namespace Sys2Proof.Machine

/-- `LD Vx, byte` (R120). -/
def execLdByte (x : RegIdx) (nn : Byte) (s : State) : Host.Outcome State Fault Refusal :=
  .next (s.setV x nn).advance

/-- `ADD Vx, byte`: modulo 256, no flag (R121). -/
def execAddByte (x : RegIdx) (nn : Byte) (s : State) : Host.Outcome State Fault Refusal :=
  .next (s.setV x (s.getV x + nn)).advance

/-- `LD Vx, Vy` (R122). -/
def execLdReg (x y : RegIdx) (s : State) : Host.Outcome State Fault Refusal :=
  .next (s.setV x (s.getV y)).advance

/-- `OR Vx, Vy`: no flag (R123). -/
def execOrReg (x y : RegIdx) (s : State) : Host.Outcome State Fault Refusal :=
  .next (s.setV x (s.getV x ||| s.getV y)).advance

/-- `AND Vx, Vy`: no flag (R124). -/
def execAndReg (x y : RegIdx) (s : State) : Host.Outcome State Fault Refusal :=
  .next (s.setV x (s.getV x &&& s.getV y)).advance

/-- `XOR Vx, Vy`: no flag (R125). -/
def execXorReg (x y : RegIdx) (s : State) : Host.Outcome State Fault Refusal :=
  .next (s.setV x (s.getV x ^^^ s.getV y)).advance

/-- `ADD Vx, Vy`: VF is the carry (R126). -/
def execAddReg (x y : RegIdx) (s : State) : Host.Outcome State Fault Refusal :=
  .next (s.setResultAndFlag x (s.getV x + s.getV y) (carryFlag (s.getV x) (s.getV y))).advance

/-- `SUB Vx, Vy`: VX - VY, VF is 1 when no borrow occurs (R127). -/
def execSub (x y : RegIdx) (s : State) : Host.Outcome State Fault Refusal :=
  .next (s.setResultAndFlag x (s.getV x - s.getV y) (notBorrow (s.getV x) (s.getV y))).advance

/-- `SHR Vx`: VX shifted right by one; the Y field is ignored (R128). -/
def execShr (x _y : RegIdx) (s : State) : Host.Outcome State Fault Refusal :=
  .next (s.setResultAndFlag x (s.getV x >>> 1) (shrFlag (s.getV x))).advance

/-- `SUBN Vx, Vy`: VY - VX, VF is 1 when no borrow occurs (R129). -/
def execSubn (x y : RegIdx) (s : State) : Host.Outcome State Fault Refusal :=
  .next (s.setResultAndFlag x (s.getV y - s.getV x) (notBorrow (s.getV y) (s.getV x))).advance

/-- `SHL Vx`: VX shifted left by one modulo 256; the Y field is ignored (R130). -/
def execShl (x _y : RegIdx) (s : State) : Host.Outcome State Fault Refusal :=
  .next (s.setResultAndFlag x (s.getV x <<< 1) (shlFlag (s.getV x))).advance

end Sys2Proof.Machine
end

