-- ==== Sys2Proof/Machine/ControlFlow.lean ====
section
/-! DEFINITION. The control-flow instructions (40_control_flow.md R100 to R110). In every meaning `s.pc` is the address of
the instruction itself (30_encoding.md R73). A target is not checked when the jump executes (R109). -/

namespace Sys2Proof.Machine

/-- `SYS addr`: raises `UnknownOpcode(w)`, w being the word 0NNN (R100). -/
def execSys (nnn : Addr12) (s : State) : Host.Outcome State Fault Refusal :=
  .next (s.raise .unknownOpcode (zextAddr nnn).toNat)

/-- `RET`: pops the return address into pc, or raises `StackUnderflow` (R101). -/
def execRet (s : State) : Host.Outcome State Fault Refusal :=
  if s.stackEmpty then .next (s.raise .stackUnderflow 0)
  else if Config.stackDepth < s.sp.toNat then .fault .stackPointerOutOfRange
  else .next (s.dropTop.jump (s.stackAt (s.sp.toNat - 1)))

/-- `JP addr`: `pc <- zext_16(NNN)` (R102). -/
def execJp (nnn : Addr12) (s : State) : Host.Outcome State Fault Refusal :=
  .next (s.jump (zextAddr nnn))

/-- `CALL addr`: pushes `pc + 2` and jumps, or raises `StackOverflow` (R103). -/
def execCall (nnn : Addr12) (s : State) : Host.Outcome State Fault Refusal :=
  if s.stackFull then .next (s.raise .stackOverflow 0)
  else .next ((s.push (s.pc + 2)).jump (zextAddr nnn))

/-- `SE Vx, byte` (R104). -/
def execSeByte (x : RegIdx) (nn : Byte) (s : State) : Host.Outcome State Fault Refusal :=
  .next (s.skipIf (s.getV x == nn))

/-- `SNE Vx, byte` (R105). -/
def execSneByte (x : RegIdx) (nn : Byte) (s : State) : Host.Outcome State Fault Refusal :=
  .next (s.skipIf (s.getV x != nn))

/-- `SE Vx, Vy` (R106). -/
def execSeReg (x y : RegIdx) (s : State) : Host.Outcome State Fault Refusal :=
  .next (s.skipIf (s.getV x == s.getV y))

/-- `SNE Vx, Vy` (R107). -/
def execSneReg (x y : RegIdx) (s : State) : Host.Outcome State Fault Refusal :=
  .next (s.skipIf (s.getV x != s.getV y))

/-- `JP V0, addr`: `pc <- zext_16(NNN) + zext_16(V[0])` (R108). -/
def execJpV0 (nnn : Addr12) (s : State) : Host.Outcome State Fault Refusal :=
  .next (s.jump (zextAddr nnn + zextByte (s.getV 0#4)))

end Sys2Proof.Machine
end

