-- ==== Sys2Proof/Machine/Display.lean ====
section
/-! DEFINITION. The display instructions and the sprite raster engine (44_display.md R165 to R171). -/

namespace Sys2Proof.Machine

/-- What the raster engine carries through a draw: the frame buffer so far and whether a pixel went from on to off (R166). -/
structure Raster where
  fb : FrameBuffer
  hit : Bool
  deriving DecidableEq, Repr

/-- One sprite bit: bit 7 - c of row byte `b` at column offset `c`, row offset `r`. A 0 leaves its pixel alone, a 1 inverts
it; both coordinates wrap (R166, R167). -/
def rasterBit (x0 y0 r : Nat) (b : Byte) (acc : Raster) (c : Nat) : Raster :=
  if b.getLsbD (7 - c) then
    let px := Fin.ofNat 64 (x0 + c)
    let py := Fin.ofNat 32 (y0 + r)
    ⟨FrameBuffer.flip acc.fb px py, acc.hit || FrameBuffer.pixel acc.fb px py⟩
  else acc

/-- One sprite row: columns 0 to 7 (R166). -/
def rasterRow (x0 y0 r : Nat) (b : Byte) (acc : Raster) : Raster :=
  (List.range 8).foldl (rasterBit x0 y0 r b) acc

/-- The rows of a sprite from row offset `r` on, downward (R166, R167). -/
def rasterRows (x0 y0 : Nat) : Nat → List Byte → Raster → Raster
  | _, [], acc => acc
  | r, b :: bs, acc => rasterRows x0 y0 (r + 1) bs (rasterRow x0 y0 r b acc)

/-- The whole sprite drawn onto the frame buffer of `s` with its top left corner at (V[X] mod 64, V[Y] mod 32): the rows
are `n` bytes from `I` on (R166). -/
def State.rasterSprite (s : State) (x y : RegIdx) (n : Nibble) : Raster :=
  rasterRows ((s.getV x).toNat % 64) ((s.getV y).toNat % 32) 0 (s.mem.readBytes s.base n.toNat) ⟨s.fb, false⟩

/-- `CLS`: every pixel off, then `display_update` (R165). -/
def execCls (s : State) : Host.Outcome State Fault Refusal :=
  .next (s.showFb FrameBuffer.clear).advance

/-- `DRW Vx, Vy, n`: XOR the sprite onto the frame buffer, VF <- collision last, then `display_update`; with n = 0 no access,
no pixel, VF <- 0 (R166, R170). -/
def execDrw (x y : RegIdx) (n : Nibble) (s : State) : Host.Outcome State Fault Refusal :=
  .next (s.ifInRange s.base n.toNat
    ((s.showFb (s.rasterSprite x y n).fb).setV regF (flagOf (s.rasterSprite x y n).hit)).advance)

end Sys2Proof.Machine
end

