-- ==== Sys2Proof/Machine/Keypad.lean ====
section
/-! DEFINITION. The keypad instructions (45_input.md R180 to R183). `LD Vx, K` begins the wait; the key press that ends it is
`State.keyPressed` in Machine/Events.lean. -/

namespace Sys2Proof.Machine

/-- `SKP Vx`: skip when key VX & 0x0F is down (R180). -/
def execSkp (x : RegIdx) (s : State) : Host.Outcome State Fault Refusal :=
  .next (s.skipIf (s.keyDown (lowNibble (s.getV x))))

/-- `SKNP Vx`: skip when key VX & 0x0F is up (R181). -/
def execSknp (x : RegIdx) (s : State) : Host.Outcome State Fault Refusal :=
  .next (s.skipIf (!s.keyDown (lowNibble (s.getV x))))

/-- `LD Vx, K`: `run <- AWAIT_KEY(X); pc <- pc + 2`; the register is written by the next key press (R182). -/
def execLdVxK (x : RegIdx) (s : State) : Host.Outcome State Fault Refusal :=
  .next (s.setRun (.awaitKey x)).advance

end Sys2Proof.Machine
end

