-- ==== Sys2Proof/Machine/Random.lean ====
section
/-! DEFINITION. The random-number instruction (43_random.md R160). -/

namespace Sys2Proof.Machine

/-- `RND Vx, byte`: `r = rng; V[X] <- r & NN` (R160). -/
def execRnd (x : RegIdx) (nn : Byte) (s : State) : Host.Outcome State Fault Refusal :=
  .next (s.afterDraw.setV x (s.randomByte &&& nn)).advance

end Sys2Proof.Machine
end

