-- ==== Sys2Proof/Machine/Timers.lean ====
section
/-! DEFINITION. The timer instructions (46_timers.md R190 to R192). The tick is `State.ticked` in Machine/Events.lean. -/

namespace Sys2Proof.Machine

/-- `LD Vx, DT` (R190). -/
def execLdVxDT (x : RegIdx) (s : State) : Host.Outcome State Fault Refusal :=
  .next (s.setV x s.DT).advance

/-- `LD DT, Vx` (R191). -/
def execLdDT (x : RegIdx) (s : State) : Host.Outcome State Fault Refusal :=
  .next (s.setDT (s.getV x)).advance

/-- `LD ST, Vx` (R192). -/
def execLdST (x : RegIdx) (s : State) : Host.Outcome State Fault Refusal :=
  .next (s.setST (s.getV x)).advance

end Sys2Proof.Machine
end

