-- ==== Sys2Proof/Machine/Events.lean ====
section
/-! DEFINITION. The events of the agents other than the core: the tick of the timer unit (60_exceptions.md R217 to R221), the
key events of the input source (10_state.md R36), and reset, load and start of the host (R39, 70_reset_and_hazards.md R240
to R244). An event its agent may not raise stops the model by name (log 9: DESIGN CHOICE, safe). -/

namespace Sys2Proof.Machine

/-- A timer after one tick: decremented unless it is 0 (R218). -/
def tickDown (t : Byte) : Byte := if t.toNat > 0 then t - 1 else t

/-- The tick: both timers, nothing else (R218). -/
def State.ticked (s : State) : State := { s with DT := tickDown s.DT, ST := tickDown s.ST }

/-- `key_press(k)`: the key goes down, and a waiting core gets the key index in the latched register and runs again
(R36, 45_input.md R182, R183). -/
def State.keyPressed (s : State) (k : KeyIdx) : State :=
  match s.run with
  | .awaitKey x => ((s.setKey k true).setV x (zextKey k)).setRun .running
  | _ => s.setKey k true

/-- The host's `reset`: every piece of state at its reset value with the core stopped (R39, R240). The font parameters are no
state, and the environment's own inputs go on (log 10: DESIGN CHOICE, safe). -/
def State.hostReset (s : State) : State :=
  { State.reset with
    mem := ⟨s.mem.font, []⟩, started := false, schedule := s.schedule, rng := s.rng, draws := s.draws }

/-- The host's `load` of an image: copied verbatim from 0x200 on (R242); an image that does not fit writes nothing, leaves
the machine halted with `ProgramImageTooLarge` and the length (R243). -/
def State.loaded (s : State) (image : List Byte) : State :=
  if image.length ≤ Config.maxImage then s.setMem (s.mem.writeBytes Config.loadAddr image)
  else { s with run := .halted, err := some ⟨.programImageTooLarge, 0x200#16, image.length⟩ }

/-- The host's `start`: `run <- RUNNING` and the agents are enabled (R244); refused after a refused load, where nothing
changes (R243). -/
def State.startedByHost (s : State) : State :=
  if s.isHalted then s else { s with run := .running, started := true }

/-- A tick, enabled once the machine is started, in every run state (R40, R218). -/
def tickEvent (s : State) : Host.Outcome State Fault Refusal :=
  if s.started then .next s.ticked else .fault .notStarted

/-- A key press, enabled once started and only for a key that is up (R36, R223, R244). -/
def keyPressEvent (k : KeyIdx) (s : State) : Host.Outcome State Fault Refusal :=
  if !s.started then .fault .notStarted
  else if s.keyDown k then .fault (.keyAlreadyDown k)
  else .next (s.keyPressed k)

/-- A key release, enabled once started and only for a key that is down (R36, R223, R244). -/
def keyReleaseEvent (k : KeyIdx) (s : State) : Host.Outcome State Fault Refusal :=
  if !s.started then .fault .notStarted
  else if s.keyDown k then .next (s.setKey k false)
  else .fault (.keyAlreadyUp k)

/-- Reset, enabled at any time between events (R223, R240). -/
def resetEvent (s : State) : Host.Outcome State Fault Refusal := .next s.hostReset

/-- Load, only outside a run and not after a refused load (R39, R40, R243). A further load after a successful one, before
`start`, is accepted and overlays the first: bytes of the first image outside the second stay. The spec gives one load between
`reset` and `start` and does not say what another does (R240, R242; log 17: DESIGN CHOICE, unsafe for claims on what the
second load leaves beyond its image). -/
def loadEvent (image : List Byte) (s : State) : Host.Outcome State Fault Refusal :=
  if s.started || s.isHalted then .fault .hostNotEnabled else .next (s.loaded image)

/-- Start, only outside a run (R39, R40, R243, R244). A start straight after `reset`, with no load, is accepted as if an empty
image had been loaded: the spec gives the order reset, load, start and does not say what a start without a load does (R240,
R242; log 18: DESIGN CHOICE, unsafe for claims on a run that begins so). -/
def startEvent (s : State) : Host.Outcome State Fault Refusal :=
  if s.started then .fault .hostNotEnabled else .next s.startedByHost

end Sys2Proof.Machine
end

