-- ==== Sys2Proof/Machine/Cycle.lean ====
section
/-! DEFINITION. One core step (30_encoding.md R73), the next event of the machine (10_state.md R40), and placing an
instruction where the next core step fetches it. -/

namespace Sys2Proof.Machine

/-- The core may take a step: it is started and `run` = RUNNING (R30, R39, R73). -/
def State.coreEnabled (s : State) : Bool := s.started && s.run == .running

/-- Decode and execute (R73 steps 3 to 5): a word that is no instruction raises `UnknownOpcode(w)` (R77, R201). -/
def runWord (s : State) (decoded : Except Illegal (Instr × List Byte)) : Host.Outcome State Fault Refusal :=
  match decoded with
  | .ok (i, _) => exec i s
  | .error _ => .next (s.raise .unknownOpcode s.fetchWord.toNat)

/-- The core step in the order of R73: fetch check, fetch, decode, execute. A core that may not step changes nothing (R183,
R209, log 8: DEDUCED, safe). -/
def coreStep (s : State) : Host.Outcome State Fault Refusal :=
  if s.coreEnabled then
    if fetchable s.pc then runWord s (decodeBytes s.fetchBytes)
    else .next (s.raise .addressOutOfRange s.pc.toNat)
  else .next s

/-- The effect of one event of an agent (R40). -/
def runEvent (e : Event) (s : State) : Host.Outcome State Fault Refusal :=
  match e with
  | .core => coreStep s
  | .tick => tickEvent s
  | .keyPress k => keyPressEvent k s
  | .keyRelease k => keyReleaseEvent k s
  | .reset => resetEvent s
  | .load image => loadEvent image s
  | .start => startEvent s

/-- The next atomic event: the head of the schedule, or a core step when nothing is scheduled (R40, log 2: DESIGN CHOICE,
unsafe for claims that fix the schedule). -/
def nextEvent (s : State) : Host.Outcome State Fault Refusal :=
  match s.schedule with
  | [] => coreStep s
  | e :: es => runEvent e { s with schedule := es }

/-- A schedule in which the core moves next: unchanged when it does already. -/
def coreFirst : List Event → List Event
  | [] => []
  | .core :: es => .core :: es
  | es => .core :: es

/-- `s` with the two bytes of word `w` stored where the next event fetches them: at pc, or at 0x200 where pc cannot be
fetched from (R72), with the core started, running and next (log 1: DEDUCED, safe). -/
def State.placeWord (s : State) (w : Half) : State :=
  let pc := if fetchable s.pc then s.pc else 0x200#16
  { s with
    pc := pc, mem := s.mem.writeBytes pc.toNat [highByte w, lowByte w]
    run := .running, started := true, schedule := coreFirst s.schedule }

end Sys2Proof.Machine
end

