-- ==== Sys2Proof/Machine/Step.lean ====
section
/-! DEFINITION. The step of the machine: its next atomic event (10_state.md R40). -/

namespace Sys2Proof.Machine

/-- One step: the next event of the schedule, or a core step when nothing is scheduled (R40, R73; log 2: DESIGN CHOICE,
unsafe for claims that fix the schedule). No step ends a run: there is no halt instruction, and a finished program jumps to
itself for ever; the model's end of run is the predicate `State.finished` of Safety.lean (R110, D36; log 19: DESIGN CHOICE,
safe). -/
def step (s : State) : Host.Outcome State Fault Refusal := nextEvent s

/-- `s` with the instruction word `w` of `nbits` bits stored where `step` fetches its next instruction. -/
def State.withFetchWord (s : State) (nbits w : Nat) : State := s.placeWord (BitVec.ofNat 16 (w % 2 ^ nbits))

end Sys2Proof.Machine
end

