-- ==== Sys2Proof/Safety.lean ====
section
/-! DEFINITION. What the claims speak of: the invariant of the machine (10_state.md R32 and the rules cited below), a safe
state, and names for what the claims say of an event, a sprite and a table row. No definition here is used by the machine. -/

namespace Sys2Proof.Machine

/-- The return addresses on the stack are those `CALL` pushes: even, at least 0x202, at most 0x1000 (R101). -/
def stackOk (s : State) : Prop :=
  ∀ k, k < s.sp.toNat → (s.stackAt k).toNat % 2 = 0 ∧ 0x202 ≤ (s.stackAt k).toNat ∧ (s.stackAt k).toNat ≤ 0x1000

/-- The invariant every event keeps (R22, R24, R30 to R32, R101, R206, R207, 00_scope.md R10). -/
structure Inv (s : State) : Prop where
  /-- memory is in its canonical form -/
  memWf : s.mem.wf = true
  /-- the font table lies below 0x200 (R10) -/
  fontWf : s.mem.font.wf = true
  /-- pc is at most the largest value any rule produces (R22) -/
  pcBound : s.pc.toNat ≤ 0x10FE
  /-- sp counts at most 16 entries (R24, R32) -/
  spBound : s.sp.toNat ≤ 16
  /-- the occupied stack entries are return addresses (R101) -/
  stackOk : stackOk s
  /-- there is an error record exactly in HALTED (R31, R206, R209) -/
  errIffHalted : s.run = .halted ↔ s.err.isSome
  /-- the recorded pc is pc (R207) -/
  errPc : ∀ r, s.err = some r → r.pc = s.pc
  /-- before `start` pc is at its reset value (R41) -/
  stoppedPc : s.started = false → s.pc = 0x200#16

/-- A run state without a fatal error (60_exceptions.md). -/
def Safe (s : State) : Prop := s.run ≠ .halted

/-- The event the next step performs (10_state.md R40): the head of the schedule, the core's step when it is empty. -/
def State.nextUp (s : State) : Event := s.schedule.headD .core

/-- `s` with the event the next step performs taken off the schedule. -/
def State.popEvent (s : State) : State := { s with schedule := s.schedule.tail }

/-- The end of a run as the model defines it, by the spec's convention: pc can be fetched from and the word there is a `JP` to its
own address (40_control_flow.md R110, decision D36, which leaves the definition to the model; log 19: DESIGN CHOICE, safe). The
machine does not signal it, and nothing stops: timer ticks and key events go on. -/
def State.finished (s : State) : Prop := fetchable s.pc = true ∧ decode s.fetchWord = .ok (.jp (s.pc.setWidth 12))

/-- Whether the sprite of `n` rows at `base` drawn from column `x0`, row `y0` has a 1 bit over pixel (x, y), in closed form:
the row and column offsets of the pixel from the corner, modulo the size of the frame buffer (R166 to R168). -/
def spriteBit (m : Memory) (base n x0 y0 : Nat) (x : Fin 64) (y : Fin 32) : Bool :=
  let c := (x.val + 64 - x0) % 64
  let r := (y.val + 32 - y0) % 32
  c < 8 && r < n && (m.read (base + r)).getLsbD (7 - c)

/-- The sprite bit over pixel (x, y) that `DRW Vx, Vy, n` draws in state `s` (R166). -/
def State.drwBit (s : State) (vx vy : RegIdx) (n : Nibble) (x : Fin 64) (y : Fin 32) : Bool :=
  spriteBit s.mem s.base n.toNat ((s.getV vx).toNat % 64) ((s.getV vy).toNat % 32) x y

/-- Whether a draw makes a collision: some sprite bit of 1 meets a pixel that is on (R168). -/
def State.drwHits (s : State) (vx vy : RegIdx) (n : Nibble) : Prop :=
  ∃ x y, FrameBuffer.pixel s.fb x y = true ∧ s.drwBit vx vy n x y = true

/-- `a` lies in the `count` bytes from `base` on. -/
def within (base count a : Nat) : Prop := base ≤ a ∧ a < base + count

/-- The instructions that write VF as a flag on every execution that completes (10_state.md R21). -/
def flagWriter : Instr → Bool
  | .addReg _ _ | .sub _ _ | .shr _ _ | .subn _ _ | .shl _ _ | .drw _ _ _ => true
  | _ => false

/-- Whether register `r` is a destination of `i`: VX of the register writers, V0 to VX of the bulk load, VF of the flag
writers (10_state.md R20, R21). `LD Vx, K` writes no register in its own step (R182). -/
def writesReg (i : Instr) (r : RegIdx) : Bool :=
  match i with
  | .ldByte x _ | .addByte x _ | .ldReg x _ | .orReg x _ | .andReg x _ | .xorReg x _ | .rnd x _ | .ldVxDT x => r == x
  | .addReg x _ | .sub x _ | .shr x _ | .subn x _ | .shl x _ => r == x || r == regF
  | .drw _ _ _ => r == regF
  | .ldRegs x => r.toNat ≤ x.toNat
  | _ => false

/-- The instructions that read or write data bytes of memory (20_memory.md R51). -/
def reachesMemory : Instr → Bool
  | .drw _ _ _ | .ldRegs _ | .ldB _ | .stRegs _ => true
  | _ => false

/-- The instructions whose rule writes pc itself: jumps, call, return and the skips (10_state.md R22). All others end by
pc + 2. -/
def transfersControl : Instr → Bool
  | .ret | .jp _ | .call _ | .jpV0 _ | .seByte _ _ | .sneByte _ _ | .seReg _ _ | .sneReg _ _ | .skp _ | .sknp _ => true
  | _ => false

/-- A list of instructions executed one after another, stopping at the first that does not answer a next state. -/
def execAll : List Instr → State → Host.Outcome State Fault Refusal
  | [], s => .next s
  | i :: is, s =>
    match exec i s with
    | .next t => execAll is t
    | .fault r => .fault r
    | .refused r => .refused r

/-- Whether the agent of an event may raise it in state `s` (10_state.md R36, R39, R40, 60_exceptions.md R223,
70_reset_and_hazards.md R240 to R244). The core's turn is always there: a core that may not step changes nothing (log 8). A
`start` after a refused load counts here, as a next state in which nothing changes (log 9), and so do a second load before
`start` (log 17) and a start without a load (log 18). -/
def eventEnabled (s : State) : Event → Prop
  | .core => True
  | .tick => s.started = true
  | .keyPress k => s.started = true ∧ s.keyDown k = false
  | .keyRelease k => s.started = true ∧ s.keyDown k = true
  | .reset => True
  | .load _ => s.started = false ∧ s.run ≠ .halted
  | .start => s.started = false

end Sys2Proof.Machine
end

