-- ==== Sys2Proof/Certificates/Slice0/Obligations.lean ====
section
/-! DEFINITION. The statements for the provers, from the numbered rules of spec/. In a result statement
`t = { s with V := t.V, pc := t.pc }` is the frame: every field of the state but those named is unchanged. -/

open Sys2Proof Sys2Proof.Machine

/-! ### Encoding (30_encoding.md) -/

/-- For every well-formed instruction, decoding its word gives it back, with every operand at every value. Rests on the opcode
map, which the spec supplies from general knowledge ("Every other bit pattern in this file is the standard CHIP-8 encoding";
D35). -/
def Obligations.DecodeOfEncodeIsTheInstruction : Prop :=
  ∀ i : Instr, WellFormed i → decode (encode i) = .ok i

/-- Each word that decodes has one meaning: the decoded instruction is well formed and encodes to that word. Rests on the
opcode map (D35). -/
def Obligations.EncodeOfDecodeIsTheWord : Prop :=
  ∀ (w : Half) (i : Instr), decode w = .ok i → WellFormed i ∧ encode i = w

/-- The decoder is the opcode table read with first match wins; a word that matches no row is illegal (R77, over the rows of
R78, which rest on D35). -/
def Obligations.DecodeIsFirstMatchingRowOfTable : Prop :=
  ∀ w : Half, opcodeTable.find? (fun r => r.selects w) =
    match decode w with
    | .ok i => some (rowOf i)
    | .error _ => none

/-- The illegal words are exactly those of the table of R79 (decision D14: the sub-opcode is matched exactly). -/
def Obligations.IllegalWordsAreThoseListed : Prop :=
  ∀ w : Half, (∃ e, decode w = .error e) ↔
    (w.toNat / 4096 = 5 ∧ w.toNat % 16 ≠ 0) ∨
    (w.toNat / 4096 = 8 ∧ w.toNat % 16 ∈ [8, 9, 10, 11, 12, 13, 15]) ∨
    (w.toNat / 4096 = 9 ∧ w.toNat % 16 ≠ 0) ∨
    (w.toNat / 4096 = 14 ∧ w.toNat % 256 ≠ 0x9E ∧ w.toNat % 256 ≠ 0xA1) ∨
    (w.toNat / 4096 = 15 ∧ w.toNat % 256 ∉ [0x07, 0x0A, 0x15, 0x18, 0x1E, 0x29, 0x33, 0x55, 0x65])

/-- Words written out from the encodings of the spec: the three words the source prints and one word of every other family.
Those seven rest on the opcode map from general knowledge (D35, log 13). -/
def Obligations.SampleWordsDecodeAsListed : Prop :=
  decode 0x600A#16 = .ok (.ldByte 0x0#4 0x0A#8) ∧ decode 0x6105#16 = .ok (.ldByte 0x1#4 0x05#8) ∧
  decode 0x8014#16 = .ok (.addReg 0x0#4 0x1#4) ∧ decode 0x00EE#16 = .ok .ret ∧ decode 0x2300#16 = .ok (.call 0x300#12) ∧
  decode 0xF21E#16 = .ok (.addI 0x2#4) ∧ decode 0xC30F#16 = .ok (.rnd 0x3#4 0x0F#8) ∧
  decode 0xD12F#16 = .ok (.drw 0x1#4 0x2#4 0xF#4) ∧ decode 0xE29E#16 = .ok (.skp 0x2#4) ∧
  decode 0xF415#16 = .ok (.ldDT 0x4#4)

/-- The fetched word is big-endian, the byte at pc on top, and decoding the fetched bytes is decoding that word (R71). -/
def Obligations.FetchIsBigEndianAtPc : Prop :=
  ∀ s : State,
    s.fetchWord.toNat = 256 * (s.mem.read s.pc.toNat).toNat + (s.mem.read (s.pc.toNat + 1)).toNat ∧
    (∀ i, decode s.fetchWord = .ok i → decodeBytes s.fetchBytes = .ok (i, [])) ∧
    (∀ e, decode s.fetchWord = .error e → decodeBytes s.fetchBytes = .error e)

/-! ### The core step (30_encoding.md R72, R73) -/

/-- Where the core moves next, is enabled and pc passes the fetch check, a step is the meaning of the decoded instruction, and
on a word that is no instruction the fault `UnknownOpcode(w)` (R73; taking the event off the schedule is the model's own,
log 2). -/
def Obligations.StepRunsTheDecodedInstruction : Prop :=
  ∀ s : State, s.nextUp = .core → s.started = true → s.run = .running →
    s.pc.toNat % 2 = 0 → 0x200 ≤ s.pc.toNat → s.pc.toNat < 4096 →
    (∀ i, decode s.fetchWord = .ok i → step s = exec i s.popEvent) ∧
    (∀ e, decode s.fetchWord = .error e →
      step s = .next { s.popEvent with
        run := .halted, err := some ⟨.unknownOpcode, s.pc, s.fetchWord.toNat⟩ })

/-- The fetch check: at an odd pc, below 0x200 or at 4096 and above the core step takes `AddressOutOfRange(pc)` and does
nothing else (R72, decision D4). -/
def Obligations.FetchFromBadPcFaults : Prop :=
  ∀ s : State, s.nextUp = .core → s.started = true → s.run = .running →
    (s.pc.toNat % 2 = 1 ∨ s.pc.toNat < 0x200 ∨ 4096 ≤ s.pc.toNat) →
    step s = .next { s.popEvent with
      run := .halted, err := some ⟨.addressOutOfRange, s.pc, s.pc.toNat⟩ }

/-- The core takes a step only when started and RUNNING: otherwise its turn changes nothing (R30, R73; that a turn without a
step is a next state is the model's choice, log 8). -/
def Obligations.CoreIdlesUnlessRunning : Prop :=
  ∀ s : State, s.nextUp = .core → (s.started = false ∨ s.run ≠ .running) → step s = .next s.popEvent

/-! ### Faults (60_exceptions.md) -/

/-- Fault entry: a core step that begins RUNNING and ends HALTED has written `run` and `err` and nothing else, the record
holds the pc the step began with, the `halted` output is 1, and the core takes no further step (R206; that the core's turn
after the fault is a next state that only takes the event off the schedule is the model's choice, log 8). -/
def Obligations.FaultEntryWritesOnlyRunAndErr : Prop :=
  ∀ s t : State, s.nextUp = .core → s.run = .running → step s = .next t → t.run = .halted →
    t.isHalted = true ∧ (∃ kind info, t = { s.popEvent with run := .halted, err := some ⟨kind, s.pc, info⟩ }) ∧
      (t.nextUp = .core → step t = .next t.popEvent)

/-- Which instruction can raise which error, with its information word (R200 to R204; the words and codes are decisions D20,
D21): no other instruction raises any. -/
def Obligations.EachErrorHasItsInstructions : Prop :=
  ∀ (i : Instr) (s t : State), s.run = .running → exec i s = .next t → t.run = .halted →
    (∃ nnn : Addr12, i = .sys nnn ∧ t.errCode = 1 ∧ t.err = some ⟨.unknownOpcode, s.pc, nnn.toNat⟩) ∨
    (∃ nnn, i = .call nnn ∧ 16 ≤ s.sp.toNat ∧ t.errCode = 2 ∧ t.err = some ⟨.stackOverflow, s.pc, 0⟩) ∨
    (i = .ret ∧ s.sp = 0 ∧ t.errCode = 3 ∧ t.err = some ⟨.stackUnderflow, s.pc, 0⟩) ∨
    (reachesMemory i = true ∧ t.errCode = 4 ∧ t.err = some ⟨.addressOutOfRange, s.pc, max s.I.toNat 4096⟩)

/-- HALTED is left only by the host's reset, and until then the error record stays as it is (R209); registers, stack, memory and
frame buffer are frozen, only the timers and the key levels still change (R210, decision D23). -/
def Obligations.HaltedIsLeftOnlyByReset : Prop :=
  ∀ s t : State, step s = .next t → s.run = .halted → s.nextUp ≠ .reset →
    t.run = .halted ∧ t.err = s.err ∧ t = { s.popEvent with DT := t.DT, ST := t.ST, keys := t.keys }

/-! ### Control flow (40_control_flow.md) -/

/-- `SYS addr` takes the fault `UnknownOpcode(w)` with w = 0NNN (R100, decision D13). -/
def Obligations.SysTakesUnknownOpcode : Prop :=
  ∀ (nnn : Addr12) (s : State),
    exec (.sys nnn) s = .next { s with run := .halted, err := some ⟨.unknownOpcode, s.pc, nnn.toNat⟩ }

/-- `RET`: with an occupied entry pc becomes the top entry and sp goes down by one, nothing else; with none the fault
`StackUnderflow` (R101). -/
def Obligations.ReturnPopsOrUnderflows : Prop :=
  ∀ s : State,
    (0 < s.sp.toNat → s.sp.toNat ≤ 16 →
      ∃ t, exec .ret s = .next t ∧ t = { s with pc := t.pc, sp := t.sp } ∧
        t.sp.toNat = s.sp.toNat - 1 ∧ t.pc = s.stackAt (s.sp.toNat - 1)) ∧
    (s.sp.toNat = 0 → exec .ret s = .next { s with run := .halted, err := some ⟨.stackUnderflow, s.pc, 0⟩ })

/-- In a state whose sp is above 16, which no run reaches (StepKeepsTheInvariant), `RET` stops the model by name and `CALL`
takes the overflow (the model's choice, log 7; R24 gives sp no such value). -/
def Obligations.StackPointerAboveSixteenPopsNothing : Prop :=
  ∀ (nnn : Addr12) (s : State), 16 < s.sp.toNat →
    exec .ret s = .fault .stackPointerOutOfRange ∧
    exec (.call nnn) s = .next { s with run := .halted, err := some ⟨.stackOverflow, s.pc, 0⟩ }

/-- `JP addr`: pc becomes NNN, nothing else (R102). -/
def Obligations.JumpSetsPc : Prop :=
  ∀ (nnn : Addr12) (s : State),
    ∃ t, exec (.jp nnn) s = .next t ∧ t = { s with pc := t.pc } ∧ t.pc.toNat = nnn.toNat

/-- `CALL addr`: pushes the address of the next instruction and jumps; with all 16 entries occupied the fault
`StackOverflow` (R103). -/
def Obligations.CallPushesOrOverflows : Prop :=
  ∀ (nnn : Addr12) (s : State),
    (s.sp.toNat < 16 →
      ∃ t, exec (.call nnn) s = .next t ∧ t = { s with pc := t.pc, sp := t.sp, stack := t.stack } ∧
        t.pc.toNat = nnn.toNat ∧ t.sp.toNat = s.sp.toNat + 1 ∧
        ∀ j, t.stackAt j = if j = s.sp.toNat then s.pc + 2 else s.stackAt j) ∧
    (s.sp.toNat = 16 →
      exec (.call nnn) s = .next { s with run := .halted, err := some ⟨.stackOverflow, s.pc, 0⟩ })

/-- The four register and byte skips: pc moves by 4 when the condition holds, by 2 when not, nothing else (R104 to R107). -/
def Obligations.ConditionalSkipsMovePc : Prop :=
  ∀ (x y : RegIdx) (nn : Byte) (s : State),
    exec (.seByte x nn) s = .next { s with pc := s.pc + if (s.getV x).toNat = nn.toNat then 4 else 2 } ∧
    exec (.sneByte x nn) s = .next { s with pc := s.pc + if (s.getV x).toNat = nn.toNat then 2 else 4 } ∧
    exec (.seReg x y) s = .next { s with pc := s.pc + if (s.getV x).toNat = (s.getV y).toNat then 4 else 2 } ∧
    exec (.sneReg x y) s = .next { s with pc := s.pc + if (s.getV x).toNat = (s.getV y).toNat then 2 else 4 }

/-- `JP V0, addr`: pc becomes NNN + V0, which never wraps (R108: meaning from general knowledge, offset register decision
D11). -/
def Obligations.JumpWithOffsetAddsV0 : Prop :=
  ∀ (nnn : Addr12) (s : State),
    ∃ t, exec (.jpV0 nnn) s = .next t ∧ t = { s with pc := t.pc } ∧
      t.pc.toNat = nnn.toNat + (s.getV 0x0#4).toNat

/-- Nested calls followed by as many returns come back to the instruction after the first call, with the stack as before, for
any depth that fits; a call with 16 occupied entries overflows (the source's property, R101, R103, T4). -/
def Obligations.NestedCallsUnwind : Prop :=
  (∀ (a : Addr12) (as : List Addr12) (s : State), s.sp.toNat + as.length + 1 ≤ 16 →
    ∃ t u, execAll ((a :: as).map Instr.call) s = .next t ∧ t.sp.toNat = s.sp.toNat + as.length + 1 ∧
      execAll (List.replicate (as.length + 1) .ret) t = .next u ∧
      u.pc = s.pc + 2 ∧ u.sp = s.sp ∧ ∀ j, j < s.sp.toNat → u.stackAt j = s.stackAt j) ∧
  (∀ (a : Addr12) (as : List Addr12) (s : State), s.sp.toNat + as.length = 16 →
    ∃ t, execAll (as.map Instr.call) s = .next t ∧
      exec (.call a) t = .next { t with run := .halted, err := some ⟨.stackOverflow, t.pc, 0⟩ })

/-! ### Arithmetic and logic (41_alu.md) -/

/-- `LD Vx, byte` and `LD Vx, Vy`: VX gets the value, every other register keeps its own (R120, R122). -/
def Obligations.LoadAndCopyWriteVx : Prop :=
  ∀ (x y : RegIdx) (nn : Byte) (s : State),
    (∃ t, exec (.ldByte x nn) s = .next t ∧ t = { s with V := t.V, pc := s.pc + 2 } ∧
      ∀ r, t.getV r = if r = x then nn else s.getV r) ∧
    (∃ t, exec (.ldReg x y) s = .next t ∧ t = { s with V := t.V, pc := s.pc + 2 } ∧
      ∀ r, t.getV r = if r = x then s.getV y else s.getV r)

/-- `ADD Vx, byte`: the sum modulo 256 goes to VX; VF is not written unless it is VX (R121). -/
def Obligations.AddByteWrapsWithoutFlag : Prop :=
  ∀ (x : RegIdx) (nn : Byte) (s : State),
    ∃ t, exec (.addByte x nn) s = .next t ∧ t = { s with V := t.V, pc := s.pc + 2 } ∧
      (t.getV x).toNat = ((s.getV x).toNat + nn.toNat) % 256 ∧ ∀ r, r ≠ x → t.getV r = s.getV r

/-- `OR`, `AND`, `XOR`: every bit of VX is the operation on the bits of VX and VY; no other register changes, VF included
(R123 to R125; that VF is left is decision D9). -/
def Obligations.LogicWritesVxOnly : Prop :=
  ∀ (x y : RegIdx) (s : State),
    (∃ t, exec (.orReg x y) s = .next t ∧ t = { s with V := t.V, pc := s.pc + 2 } ∧
      (∀ k, (t.getV x).getLsbD k = ((s.getV x).getLsbD k || (s.getV y).getLsbD k)) ∧
      ∀ r, r ≠ x → t.getV r = s.getV r) ∧
    (∃ t, exec (.andReg x y) s = .next t ∧ t = { s with V := t.V, pc := s.pc + 2 } ∧
      (∀ k, (t.getV x).getLsbD k = ((s.getV x).getLsbD k && (s.getV y).getLsbD k)) ∧
      ∀ r, r ≠ x → t.getV r = s.getV r) ∧
    (∃ t, exec (.xorReg x y) s = .next t ∧ t = { s with V := t.V, pc := s.pc + 2 } ∧
      (∀ k, (t.getV x).getLsbD k = ((s.getV x).getLsbD k ^^ (s.getV y).getLsbD k)) ∧
      ∀ r, r ≠ x → t.getV r = s.getV r)

/-- `ADD Vx, Vy`: VF is 1 when the sum exceeds 255, else 0, written last; VX, unless it is VF, gets the sum modulo 256
(R126, R132). -/
def Obligations.AddRegisterSetsCarry : Prop :=
  ∀ (x y : RegIdx) (s : State),
    ∃ t, exec (.addReg x y) s = .next t ∧ t = { s with V := t.V, pc := s.pc + 2 } ∧
      (t.getV 0xF#4).toNat = (if (s.getV x).toNat + (s.getV y).toNat > 255 then 1 else 0) ∧
      (x ≠ 0xF#4 → (t.getV x).toNat = ((s.getV x).toNat + (s.getV y).toNat) % 256) ∧
      ∀ r, r ≠ x → r ≠ 0xF#4 → t.getV r = s.getV r

/-- `SUB` and `SUBN`: VF is 1 when minuend >= subtrahend, else 0, written last; VX, unless it is VF, gets the difference
modulo 256 (R127, R129). -/
def Obligations.SubtractionsSetNotBorrow : Prop :=
  ∀ (x y : RegIdx) (s : State),
    (∃ t, exec (.sub x y) s = .next t ∧ t = { s with V := t.V, pc := s.pc + 2 } ∧
      (t.getV 0xF#4).toNat = (if (s.getV x).toNat ≥ (s.getV y).toNat then 1 else 0) ∧
      (x ≠ 0xF#4 → (t.getV x).toNat = (256 + (s.getV x).toNat - (s.getV y).toNat) % 256) ∧
      ∀ r, r ≠ x → r ≠ 0xF#4 → t.getV r = s.getV r) ∧
    (∃ t, exec (.subn x y) s = .next t ∧ t = { s with V := t.V, pc := s.pc + 2 } ∧
      (t.getV 0xF#4).toNat = (if (s.getV y).toNat ≥ (s.getV x).toNat then 1 else 0) ∧
      (x ≠ 0xF#4 → (t.getV x).toNat = (256 + (s.getV y).toNat - (s.getV x).toNat) % 256) ∧
      ∀ r, r ≠ x → r ≠ 0xF#4 → t.getV r = s.getV r)

/-- `SHR` and `SHL` shift VX by one, VF is the bit shifted out, 0 or 1, written last; the Y field plays no part (R128, R130;
that VX and not VY is shifted is decision D7). -/
def Obligations.ShiftsSetTheBitShiftedOut : Prop :=
  ∀ (x y : RegIdx) (s : State),
    (∃ t, exec (.shr x y) s = .next t ∧ t = { s with V := t.V, pc := s.pc + 2 } ∧
      (t.getV 0xF#4).toNat = (s.getV x).toNat % 2 ∧
      (x ≠ 0xF#4 → (t.getV x).toNat = (s.getV x).toNat / 2) ∧
      ∀ r, r ≠ x → r ≠ 0xF#4 → t.getV r = s.getV r) ∧
    (∃ t, exec (.shl x y) s = .next t ∧ t = { s with V := t.V, pc := s.pc + 2 } ∧
      (t.getV 0xF#4).toNat = (s.getV x).toNat / 128 ∧
      (x ≠ 0xF#4 → (t.getV x).toNat = (s.getV x).toNat * 2 % 256) ∧
      ∀ r, r ≠ x → r ≠ 0xF#4 → t.getV r = s.getV r)

/-- Every instruction of the six flag writers that completes leaves 0 or 1 in VF (R21; with n = 0 for `DRW` decision D15). -/
def Obligations.FlagWritersLeaveZeroOrOne : Prop :=
  ∀ (i : Instr) (s t : State), flagWriter i = true → s.run = .running → exec i s = .next t → t.run = .running →
    (t.getV 0xF#4).toNat = 0 ∨ (t.getV 0xF#4).toNat = 1

/-- A general register that an instruction changes is one of its destinations; in particular no instruction but the flag
writers and those that name VF touch VF (R20, R21; decisions D9, D10). -/
def Obligations.RegistersChangeOnlyAsDestinations : Prop :=
  ∀ (i : Instr) (s t : State) (r : RegIdx), exec i s = .next t → t.getV r ≠ s.getV r → writesReg i r = true

/-! ### Address register and memory (42_addressing_memory.md, 20_memory.md) -/

/-- `LD I, addr`: I becomes NNN, nothing else but pc (R140). -/
def Obligations.LoadISetsAddress : Prop :=
  ∀ (nnn : Addr12) (s : State),
    ∃ t, exec (.ldI nnn) s = .next t ∧ t = { s with I := t.I, pc := s.pc + 2 } ∧ t.I.toNat = nnn.toNat

/-- `ADD I, Vx`: the sum modulo 65536, no register written, VF included (R141, decision D10). -/
def Obligations.AddIWrapsAtSixteenBits : Prop :=
  ∀ (x : RegIdx) (s : State),
    ∃ t, exec (.addI x) s = .next t ∧ t = { s with I := t.I, pc := s.pc + 2 } ∧
      t.I.toNat = (s.I.toNat + (s.getV x).toNat) % 65536

/-- `LD F, Vx`: I becomes FONT_BASE + 5 * (VX mod 16), for every font table that lies below 0x200 (R142: meaning from general
knowledge, decisions D6, D17). -/
def Obligations.LoadFPointsAtDigit : Prop :=
  ∀ (x : RegIdx) (s : State), s.mem.font.wf = true →
    ∃ t, exec (.ldF x) s = .next t ∧ t = { s with I := t.I, pc := s.pc + 2 } ∧
      t.I.toNat = s.mem.font.base.toNat + 5 * ((s.getV x).toNat % 16)

/-- `LD B, Vx`: the decimal digits of VX at I, I + 1, I + 2 and no other byte of memory changes; out of range the fault with
the lowest offending address and nothing stored (R143). -/
def Obligations.StoreDecimalDigits : Prop :=
  ∀ (x : RegIdx) (s : State), s.mem.wf = true →
    (s.I.toNat + 2 ≤ 4095 →
      ∃ t, exec (.ldB x) s = .next t ∧ t = { s with mem := t.mem, pc := s.pc + 2 } ∧ t.mem.font = s.mem.font ∧
        (t.mem.read s.I.toNat).toNat = (s.getV x).toNat / 100 ∧
        (t.mem.read (s.I.toNat + 1)).toNat = (s.getV x).toNat / 10 % 10 ∧
        (t.mem.read (s.I.toNat + 2)).toNat = (s.getV x).toNat % 10 ∧
        ∀ a, ¬ within s.base 3 a → t.mem.read a = s.mem.read a) ∧
    (s.I.toNat + 2 > 4095 →
      exec (.ldB x) s = .next { s with
        run := .halted, err := some ⟨.addressOutOfRange, s.pc, max s.I.toNat 4096⟩ })

/-- `LD [I], Vx`: V0 to VX stored from I on, no other byte changes, I is unchanged; out of range the fault and nothing stored
(R144; I unchanged is decision D8). -/
def Obligations.StoreRegistersFromI : Prop :=
  ∀ (x : RegIdx) (s : State), s.mem.wf = true →
    (s.I.toNat + x.toNat ≤ 4095 →
      ∃ t, exec (.stRegs x) s = .next t ∧ t = { s with mem := t.mem, pc := s.pc + 2 } ∧ t.mem.font = s.mem.font ∧
        (∀ k : RegIdx, k.toNat ≤ x.toNat → t.mem.read (s.I.toNat + k.toNat) = s.getV k) ∧
        ∀ a, ¬ within s.base (x.toNat + 1) a → t.mem.read a = s.mem.read a) ∧
    (s.I.toNat + x.toNat > 4095 →
      exec (.stRegs x) s = .next { s with
        run := .halted, err := some ⟨.addressOutOfRange, s.pc, max s.I.toNat 4096⟩ })

/-- `LD Vx, [I]`: V0 to VX loaded from I on, the registers above X keep their values, I and memory are unchanged; out of range
the fault and no register written (R145; I unchanged is decision D8). -/
def Obligations.LoadRegistersFromI : Prop :=
  ∀ (x : RegIdx) (s : State),
    (s.I.toNat + x.toNat ≤ 4095 →
      ∃ t, exec (.ldRegs x) s = .next t ∧ t = { s with V := t.V, pc := s.pc + 2 } ∧
        ∀ r : RegIdx, t.getV r = if r.toNat ≤ x.toNat then s.mem.read (s.I.toNat + r.toNat) else s.getV r) ∧
    (s.I.toNat + x.toNat > 4095 →
      exec (.ldRegs x) s = .next { s with
        run := .halted, err := some ⟨.addressOutOfRange, s.pc, max s.I.toNat 4096⟩ })

/-- An instruction other than `DRW`, `LD B`, `LD [I]` and `LD Vx, [I]` neither writes a byte of memory nor depends on one:
with any other memory contents it does the same to the rest of the state (R51). -/
def Obligations.OtherInstructionsDoNotReachMemory : Prop :=
  ∀ (i : Instr) (s t : State) (cells : List Host.Cell), reachesMemory i = false → exec i s = .next t →
    t.mem = s.mem ∧
      exec i { s with mem := { s.mem with cells := cells } } = .next { t with mem := { s.mem with cells := cells } }

/-- A store into the instruction stream is seen by the next fetch: when `LD [I], Vx` or `LD B, Vx` has stored over the next
instruction, the next word is formed from the bytes just stored (R61, decision D26). -/
def Obligations.StoreIsSeenByNextFetch : Prop :=
  ∀ (x : RegIdx) (s : State), s.mem.wf = true → s.I = s.pc + 2 →
    (s.I.toNat + x.toNat ≤ 4095 → 1 ≤ x.toNat →
      ∃ t, exec (.stRegs x) s = .next t ∧ t.fetchWord = s.getV 0x0#4 ++ s.getV 0x1#4) ∧
    (s.I.toNat + 2 ≤ 4095 →
      ∃ t, exec (.ldB x) s = .next t ∧
        t.fetchWord.toNat = 256 * ((s.getV x).toNat / 100) + (s.getV x).toNat / 10 % 10)

/-- Each piece of state has the instructions that write it and no others: the general registers (decisions D9, D10), pc (written
by every instruction that takes no fault, to pc + 2 but for jumps, call, return and skips), run and err (a fault, or the key
wait for run), I (no memory access changes it, decision D8), the stack and sp, the frame buffer, the timers, memory; the keypad
none (10_state.md R20 to R31; 20_memory.md R51). The fields that render the spec in the model's own way are `started` (log 1),
`schedule` (log 2), `rng` and `draws` (log 3) and `displayUpdates` (log 11). -/
def Obligations.EachStateHasItsWriters : Prop :=
  ∀ (i : Instr) (s t : State), exec i s = .next t →
    (∀ r, t.getV r ≠ s.getV r → writesReg i r = true) ∧
    (t.pc ≠ s.pc + 2 → transfersControl i = true ∨ (t.pc = s.pc ∧ t.run = .halted)) ∧
    (t.pc ≠ s.pc → t.err = s.err) ∧
    (t.run ≠ s.run → (∃ x, i = .ldVxK x ∧ t.run = .awaitKey x) ∨ (t.run = .halted ∧ t.err.isSome)) ∧
    (t.err ≠ s.err → t.run = .halted ∧
      ((∃ a, i = .sys a) ∨ (∃ a, i = .call a) ∨ i = .ret ∨ reachesMemory i = true)) ∧
    (t.I ≠ s.I → (∃ a, i = .ldI a) ∨ (∃ x, i = .addI x) ∨ (∃ x, i = .ldF x)) ∧
    (t.stack ≠ s.stack → ∃ a, i = .call a) ∧
    (t.sp ≠ s.sp → (∃ a, i = .call a) ∨ i = .ret) ∧
    (t.fb ≠ s.fb → i = .cls ∨ ∃ x y n, i = .drw x y n) ∧
    (t.displayUpdates ≠ s.displayUpdates → i = .cls ∨ ∃ x y n, i = .drw x y n) ∧
    (t.DT ≠ s.DT → ∃ x, i = .ldDT x) ∧
    (t.ST ≠ s.ST → ∃ x, i = .ldST x) ∧
    (t.mem ≠ s.mem → (∃ x, i = .ldB x) ∨ (∃ x, i = .stRegs x)) ∧
    ((t.rng ≠ s.rng ∨ t.draws ≠ s.draws) → ∃ x nn, i = .rnd x nn) ∧
    t.keys = s.keys ∧ t.started = s.started ∧ t.schedule = s.schedule

/-- No instruction reads the sound timer: with any other value in ST an instruction does the same to everything else (R26). -/
def Obligations.NoInstructionReadsSoundTimer : Prop :=
  ∀ (i : Instr) (s t : State) (b : Byte), exec i s = .next t → (∀ x, i ≠ .ldST x) →
    exec i { s with ST := b } = .next { t with ST := b }

/-! ### Random (43_random.md) -/

/-- `RND Vx, byte`: VX gets r AND NN for the byte r the random source answers, no other register changes; and every byte r is a
possible answer, since the source's answers are part of the state (R160; the field `rng` is the model's own, log 3). -/
def Obligations.RandomByteIsMasked : Prop :=
  ∀ (x : RegIdx) (nn : Byte) (s : State),
    (∃ (r : Byte) (t : State), exec (.rnd x nn) s = .next t ∧
      t = { s with V := t.V, pc := s.pc + 2, rng := s.rng.tail, draws := s.draws + 1 } ∧
      t.getV x = r &&& nn ∧ t.getV x &&& ~~~nn = 0 ∧ ∀ q, q ≠ x → t.getV q = s.getV q) ∧
    (∀ r : Byte, ∃ t, exec (.rnd x nn) { s with rng := r :: s.rng } = .next t ∧ t.getV x = r &&& nn)

/-! ### Display (44_display.md) -/

/-- `CLS`: every pixel off, `display_update` raised, VF not written (R165: meaning from general knowledge, decision D12). -/
def Obligations.ClearScreenTurnsEveryPixelOff : Prop :=
  ∀ s : State,
    ∃ t, exec .cls s = .next t ∧
      t = { s with fb := t.fb, displayUpdates := s.displayUpdates + 1, pc := s.pc + 2 } ∧
      ∀ x y, FrameBuffer.pixel t.fb x y = false

/-- `DRW Vx, Vy, n` with its sprite in range: every pixel is XORed with the sprite bit over it, with wrap on both axes; VF is 1
exactly when a sprite bit of 1 met a pixel that was on; `display_update` is raised; I and memory are unchanged. Out of range
the fault, no pixel and no VF changed (R166, in the closed form of R168; n = 0 in range whatever I is, decision D15; bit 7 of a
sprite byte leftmost, decision D16; `display_update` raised by every draw, decision D30, and held as a count, log 11). -/
def Obligations.DrawXorsTheSprite : Prop :=
  ∀ (vx vy : RegIdx) (n : Nibble) (s : State),
    (n.toNat = 0 ∨ s.I.toNat + n.toNat - 1 ≤ 4095 →
      ∃ t, exec (.drw vx vy n) s = .next t ∧
        t = { s with V := t.V, fb := t.fb, displayUpdates := s.displayUpdates + 1, pc := s.pc + 2 } ∧
        (∀ x y, FrameBuffer.pixel t.fb x y = (FrameBuffer.pixel s.fb x y ^^ s.drwBit vx vy n x y)) ∧
        (s.drwHits vx vy n → t.getV 0xF#4 = 1) ∧ (¬ s.drwHits vx vy n → t.getV 0xF#4 = 0) ∧
        ∀ r, r ≠ 0xF#4 → t.getV r = s.getV r) ∧
    (0 < n.toNat → s.I.toNat + n.toNat - 1 > 4095 →
      exec (.drw vx vy n) s = .next { s with
        run := .halted, err := some ⟨.addressOutOfRange, s.pc, max s.I.toNat 4096⟩ })

/-- Drawing the same sprite twice at the same coordinates restores the frame buffer, and the second VF is 1 exactly when the
first draw turned a pixel on (R169). -/
def Obligations.DrawingTwiceRestores : Prop :=
  ∀ (vx vy : RegIdx) (n : Nibble) (s t : State), s.run = .running →
    exec (.drw vx vy n) s = .next t → t.run = .running → t.getV vx = s.getV vx → t.getV vy = s.getV vy →
    ∃ u, exec (.drw vx vy n) t = .next u ∧ u.fb = s.fb ∧
      (u.getV 0xF#4 = 1 ↔ ∃ x y, FrameBuffer.pixel s.fb x y = false ∧ FrameBuffer.pixel t.fb x y = true)

/-- `DRW` with n = 0 makes no access whatever I is, changes no pixel, puts 0 in VF and raises `display_update` (R170, decision
D15; `display_update` is held as a count, log 11). -/
def Obligations.DrawOfZeroRows : Prop :=
  ∀ (vx vy : RegIdx) (s : State),
    ∃ t, exec (.drw vx vy 0x0#4) s = .next t ∧
      t = { s with V := t.V, displayUpdates := s.displayUpdates + 1, pc := s.pc + 2 } ∧
      ∀ r, t.getV r = if r = 0xF#4 then 0 else s.getV r

/-! ### Keypad (45_input.md, 10_state.md R36) -/

/-- `SKP` and `SKNP` skip on the level of the key named by the low 4 bits of VX (R180, R181, decision D17). -/
def Obligations.KeySkipsReadTheKeypad : Prop :=
  ∀ (x : RegIdx) (k : KeyIdx) (s : State), (s.getV x).toNat % 16 = k.toNat →
    exec (.skp x) s = .next { s with pc := s.pc + if s.keyDown k = true then 4 else 2 } ∧
    exec (.sknp x) s = .next { s with pc := s.pc + if s.keyDown k = true then 2 else 4 }

/-- `LD Vx, K`: the core waits with X latched, pc moves on, no register is written by this step; the next key press writes the
key index into the latched register and the core runs again (R182). -/
def Obligations.KeyWaitBeginsAndCompletes : Prop :=
  ∀ (x : RegIdx) (s : State),
    exec (.ldVxK x) s = .next { s with run := .awaitKey x, pc := s.pc + 2 } ∧
    ∀ (k : KeyIdx) (es : List Event), s.started = true → s.keyDown k = false →
      ∃ u, step { s with run := .awaitKey x, pc := s.pc + 2, schedule := .keyPress k :: es } = .next u ∧
        u = { s with V := u.V, pc := s.pc + 2, keys := u.keys, run := .running, schedule := es } ∧
        (u.getV x).toNat = k.toNat ∧ ∀ r, r ≠ x → u.getV r = s.getV r

/-- A key press: the key goes down; a waiting core gets the key index in the latched register and runs again, otherwise nothing
but the key level changes (R36, R183, decision D18). -/
def Obligations.KeyPressCompletesTheWait : Prop :=
  ∀ (k : KeyIdx) (s : State), s.nextUp = .keyPress k → s.started = true → s.keyDown k = false →
    ∃ t, step s = .next t ∧ (∀ j, t.keyDown j = if j = k then true else s.keyDown j) ∧
      (∀ x, s.run = .awaitKey x →
        t = { s.popEvent with keys := t.keys, V := t.V, run := .running } ∧ (t.getV x).toNat = k.toNat ∧
          ∀ r, r ≠ x → t.getV r = s.getV r) ∧
      ((∀ x, s.run ≠ .awaitKey x) → t = { s.popEvent with keys := t.keys })

/-- While the core waits for a key, no event but a key press and the host's reset changes anything but timers and key levels,
and the wait goes on (R183, decision D18). -/
def Obligations.KeyWaitLastsUntilKeyPress : Prop :=
  ∀ (x : RegIdx) (s t : State), s.run = .awaitKey x → s.started = true → step s = .next t →
    (∀ k, s.nextUp ≠ .keyPress k) → s.nextUp ≠ .reset →
    t = { s.popEvent with DT := t.DT, ST := t.ST, keys := t.keys }

/-- A key release changes the level of its key and nothing else, whatever the run state (R36, decision D18). -/
def Obligations.KeyReleaseChangesOneKey : Prop :=
  ∀ (k : KeyIdx) (s : State), s.nextUp = .keyRelease k → s.started = true → s.keyDown k = true →
    ∃ t, step s = .next t ∧ t = { s.popEvent with keys := t.keys } ∧
      ∀ j, t.keyDown j = if j = k then false else s.keyDown j

/-- The transitions of the run state are those listed: RUNNING to AWAIT_KEY(x) by `LD Vx, K`, AWAIT_KEY to RUNNING by a key
press, RUNNING to HALTED by a core step, and anything by the host's reset (R30). -/
def Obligations.RunStateChangesAsListed : Prop :=
  ∀ s t : State, s.started = true → step s = .next t → t.run ≠ s.run →
    (s.run = .running ∧ s.nextUp = .core ∧ ∃ x, decode s.fetchWord = .ok (.ldVxK x) ∧ t.run = .awaitKey x) ∨
    (∃ x k, s.run = .awaitKey x ∧ s.nextUp = .keyPress k ∧ t.run = .running) ∨
    (s.run = .running ∧ s.nextUp = .core ∧ t.run = .halted) ∨
    s.nextUp = .reset

/-! ### Timers (46_timers.md, 60_exceptions.md) -/

/-- `LD Vx, DT` reads DT, `LD DT, Vx` and `LD ST, Vx` load the timers, and `sound_on` follows ST (R190 to R192). -/
def Obligations.TimerInstructionsMoveTheTimers : Prop :=
  ∀ (x : RegIdx) (s : State),
    (∃ t, exec (.ldVxDT x) s = .next t ∧ t = { s with V := t.V, pc := s.pc + 2 } ∧
      ∀ r, t.getV r = if r = x then s.DT else s.getV r) ∧
    exec (.ldDT x) s = .next { s with DT := s.getV x, pc := s.pc + 2 } ∧
    (∃ t, exec (.ldST x) s = .next t ∧ t = { s with ST := s.getV x, pc := s.pc + 2 } ∧
      (t.soundOn = true ↔ (s.getV x).toNat ≠ 0))

/-- The tick decrements each timer that is not 0 and touches nothing else, in every run state once started, and the sound
output is on exactly while the sound timer is not 0 (R218). -/
def Obligations.TickDecrementsBothTimers : Prop :=
  ∀ s : State, s.nextUp = .tick → s.started = true →
    ∃ t, step s = .next t ∧ t = { s.popEvent with DT := t.DT, ST := t.ST } ∧
      t.DT.toNat = s.DT.toNat - 1 ∧ t.ST.toNat = s.ST.toNat - 1 ∧ (t.soundOn = true ↔ 0 < t.ST.toNat)

/-- After n ticks a timer that held v holds v - n, clamped at 0, and nothing else has changed (R218, R221). -/
def Obligations.TicksCountDownToZero : Prop :=
  ∀ (n : Nat) (es : List Event) (s : State), s.started = true →
    ∃ t : State, Sys2Proof.core.run n { s with schedule := List.replicate n Event.tick ++ es } = .next t ∧
      t = { s with DT := t.DT, ST := t.ST, schedule := es } ∧
      t.DT.toNat = s.DT.toNat - n ∧ t.ST.toNat = s.ST.toNat - n

/-! ### Host (70_reset_and_hazards.md) -/

/-- The host's load of an image that fits copies it verbatim to 0x200 and on, and nothing else changes (R242, decision
D33). For a second load before `start`, which the spec does not speak of, that is the model's choice: bytes of the first image
outside the second stay (log 17). -/
def Obligations.LoadCopiesTheImage : Prop :=
  ∀ (image : List Byte) (s : State), s.nextUp = .load image → s.started = false → s.run ≠ .halted →
    s.mem.wf = true → image.length ≤ 3584 →
    ∃ t, step s = .next t ∧ t = { s.popEvent with mem := t.mem } ∧ t.mem.font = s.mem.font ∧
      (∀ k, (h : k < image.length) → t.mem.read (0x200 + k) = image[k]) ∧
      ∀ a, ¬ within 0x200 image.length a → t.mem.read a = s.mem.read a

/-- An image that does not fit: nothing is written, the machine is halted with `ProgramImageTooLarge`, pc 0x200 and the length,
and `start` is refused: it changes nothing, nor does the core's turn (R243; that the refused start is a next state is the model's
choice, log 9, and that the core's turn is one, log 8). -/
def Obligations.OversizedImageNeverStarts : Prop :=
  ∀ (image : List Byte) (s : State), s.nextUp = .load image → s.started = false → s.run ≠ .halted →
    0x200 + image.length > 4096 →
    ∃ t, step s = .next t ∧
      t = { s.popEvent with run := .halted, err := some ⟨.programImageTooLarge, 0x200#16, image.length⟩ } ∧
      (t.nextUp = .start → step t = .next t.popEvent) ∧ (t.nextUp = .core → step t = .next t.popEvent)

/-- The host's reset discards all state, from every state, and leaves the core stopped; `start` then gives the state of R41
(R240, R244, decision D32; what the environment keeps is log 10, and that a start straight after reset, with no load between,
succeeds is the model's choice, log 18). -/
def Obligations.ResetDiscardsAllState : Prop :=
  (∀ s : State, s.nextUp = .reset →
    step s = .next { State.reset with
      mem := ⟨s.mem.font, []⟩, started := false, schedule := s.schedule.tail, rng := s.rng, draws := s.draws }) ∧
  (∀ s : State, s.nextUp = .start → s.started = false → s.run ≠ .halted →
    step s = .next { s.popEvent with started := true, run := .running })

/-- The values after reset, the font table byte for byte (R41, R33; the font and the keypad are decisions D6 and D18, `run` and
`err` D32; State.reset is the state at start with the default font, logs 1 and 4). -/
def Obligations.ResetStateHoldsTheListedValues : Prop :=
  (∀ r, State.reset.getV r = 0) ∧ State.reset.I = 0 ∧ State.reset.pc = 0x200#16 ∧ State.reset.sp = 0 ∧
  (∀ k, State.reset.stackAt k = 0) ∧ State.reset.DT = 0 ∧ State.reset.ST = 0 ∧
  (∀ x y, FrameBuffer.pixel State.reset.fb x y = false) ∧ (∀ k, State.reset.keyDown k = false) ∧
  State.reset.run = .running ∧ State.reset.err = none ∧ State.reset.errCode = 0 ∧ State.reset.soundOn = false ∧
  State.reset.mem.readBytes 0x050 5 = [0xF0#8, 0x90#8, 0x90#8, 0x90#8, 0xF0#8] ∧
  State.reset.mem.readBytes 0x055 5 = [0x20#8, 0x60#8, 0x20#8, 0x20#8, 0x70#8] ∧
  State.reset.mem.readBytes 0x05A 5 = [0xF0#8, 0x10#8, 0xF0#8, 0x80#8, 0xF0#8] ∧
  State.reset.mem.readBytes 0x05F 5 = [0xF0#8, 0x10#8, 0xF0#8, 0x10#8, 0xF0#8] ∧
  State.reset.mem.readBytes 0x064 5 = [0x90#8, 0x90#8, 0xF0#8, 0x10#8, 0x10#8] ∧
  State.reset.mem.readBytes 0x069 5 = [0xF0#8, 0x80#8, 0xF0#8, 0x10#8, 0xF0#8] ∧
  State.reset.mem.readBytes 0x06E 5 = [0xF0#8, 0x80#8, 0xF0#8, 0x90#8, 0xF0#8] ∧
  State.reset.mem.readBytes 0x073 5 = [0xF0#8, 0x10#8, 0x20#8, 0x40#8, 0x40#8] ∧
  State.reset.mem.readBytes 0x078 5 = [0xF0#8, 0x90#8, 0xF0#8, 0x90#8, 0xF0#8] ∧
  State.reset.mem.readBytes 0x07D 5 = [0xF0#8, 0x90#8, 0xF0#8, 0x10#8, 0xF0#8] ∧
  State.reset.mem.readBytes 0x082 5 = [0xF0#8, 0x90#8, 0xF0#8, 0x90#8, 0x90#8] ∧
  State.reset.mem.readBytes 0x087 5 = [0xE0#8, 0x90#8, 0xE0#8, 0x90#8, 0xE0#8] ∧
  State.reset.mem.readBytes 0x08C 5 = [0xF0#8, 0x80#8, 0x80#8, 0x80#8, 0xF0#8] ∧
  State.reset.mem.readBytes 0x091 5 = [0xE0#8, 0x90#8, 0x90#8, 0x90#8, 0xE0#8] ∧
  State.reset.mem.readBytes 0x096 5 = [0xF0#8, 0x80#8, 0xF0#8, 0x80#8, 0xF0#8] ∧
  State.reset.mem.readBytes 0x09B 5 = [0xF0#8, 0x80#8, 0xF0#8, 0x80#8, 0x80#8] ∧
  (∀ a, ¬ within 0x050 80 a → State.reset.mem.read a = 0)

/-- The first core step after reset, load and start fetches the first two bytes of the image, from 0x200: from every state, for
every image of at least two bytes that fits (R241). -/
def Obligations.FirstFetchIsTheImageStart : Prop :=
  ∀ (hi lo : Byte) (rest : List Byte) (s : State), (hi :: lo :: rest).length ≤ 3584 →
    ∃ t, Sys2Proof.core.run 3 { s with schedule := [.reset, .load (hi :: lo :: rest), .start] } = .next t ∧
      t.pc = 0x200#16 ∧ t.coreEnabled = true ∧ fetchable t.pc = true ∧ t.fetchWord = hi ++ lo

/-! ### The whole machine -/

/-- A step answers a next state exactly when the agent of the event may raise it; the core's turn always does (R36, R39, R40,
R223). The spec enables the core's own event only when RUNNING: that its turn is always there, and changes nothing otherwise, is
the model's choice (log 8). So are, of the host's events: a second load before `start` may be raised (log 17), a start without a
load may be raised (log 18), and a start after a refused load, which R243 refuses, is a next state in which nothing changes
(log 9). That an event which is not enabled stops the model is log 9 too. -/
def Obligations.StepCompletesExactlyWhenEnabled : Prop :=
  ∀ s : State, s.sp.toNat ≤ 16 → (eventEnabled s s.nextUp ↔ ∃ t, step s = .next t)

/-- The invariant holds after reset (R32, R41). -/
def Obligations.ResetMeetsTheInvariant : Prop := Inv State.reset

/-- Every step of every agent keeps the invariant: canonical memory, the font below 0x200, pc at most 0x10FE, sp at most 16,
return addresses even and in 0x202 to 0x1000, an error record exactly in HALTED and at pc (R10, R22, R24, R31, R32, R101, R206,
R207). -/
def Obligations.StepKeepsTheInvariant : Prop :=
  ∀ s t : State, Inv s → step s = .next t → Inv t
end

