-- ==== Sys2Proof/Laws/State.lean ====
section
/-! SUPPORT. The small lemmas of the state: one per field per update, and what the accessors read after each update, so that
no later proof unfolds a record update. -/

namespace Sys2Proof.Machine

/-! ### State.setV -/

@[simp] theorem State.setV_V (s : State) (x : RegIdx) (b : Byte) : (s.setV x b).V = s.V.set x.toNat b x.isLt := rfl
@[simp] theorem State.setV_I (s : State) (x : RegIdx) (b : Byte) : (s.setV x b).I = s.I := rfl
@[simp] theorem State.setV_pc (s : State) (x : RegIdx) (b : Byte) : (s.setV x b).pc = s.pc := rfl
@[simp] theorem State.setV_sp (s : State) (x : RegIdx) (b : Byte) : (s.setV x b).sp = s.sp := rfl
@[simp] theorem State.setV_stack (s : State) (x : RegIdx) (b : Byte) : (s.setV x b).stack = s.stack := rfl
@[simp] theorem State.setV_DT (s : State) (x : RegIdx) (b : Byte) : (s.setV x b).DT = s.DT := rfl
@[simp] theorem State.setV_ST (s : State) (x : RegIdx) (b : Byte) : (s.setV x b).ST = s.ST := rfl
@[simp] theorem State.setV_mem (s : State) (x : RegIdx) (b : Byte) : (s.setV x b).mem = s.mem := rfl
@[simp] theorem State.setV_fb (s : State) (x : RegIdx) (b : Byte) : (s.setV x b).fb = s.fb := rfl
@[simp] theorem State.setV_keys (s : State) (x : RegIdx) (b : Byte) : (s.setV x b).keys = s.keys := rfl
@[simp] theorem State.setV_run (s : State) (x : RegIdx) (b : Byte) : (s.setV x b).run = s.run := rfl
@[simp] theorem State.setV_err (s : State) (x : RegIdx) (b : Byte) : (s.setV x b).err = s.err := rfl
@[simp] theorem State.setV_started (s : State) (x : RegIdx) (b : Byte) : (s.setV x b).started = s.started := rfl
@[simp] theorem State.setV_displayUpdates (s : State) (x : RegIdx) (b : Byte) : (s.setV x b).displayUpdates = s.displayUpdates := rfl
@[simp] theorem State.setV_schedule (s : State) (x : RegIdx) (b : Byte) : (s.setV x b).schedule = s.schedule := rfl
@[simp] theorem State.setV_rng (s : State) (x : RegIdx) (b : Byte) : (s.setV x b).rng = s.rng := rfl
@[simp] theorem State.setV_draws (s : State) (x : RegIdx) (b : Byte) : (s.setV x b).draws = s.draws := rfl
@[simp] theorem State.setV_keyDown (s : State) (x : RegIdx) (b : Byte) (j : KeyIdx) : (s.setV x b).keyDown j = s.keyDown j := rfl
@[simp] theorem State.setV_stackAt (s : State) (x : RegIdx) (b : Byte) (j : Nat) : (s.setV x b).stackAt j = s.stackAt j := rfl
@[simp] theorem State.setV_base (s : State) (x : RegIdx) (b : Byte) : (s.setV x b).base = s.base := rfl
@[simp] theorem State.setV_isHalted (s : State) (x : RegIdx) (b : Byte) : (s.setV x b).isHalted = s.isHalted := rfl
@[simp] theorem State.setV_soundOn (s : State) (x : RegIdx) (b : Byte) : (s.setV x b).soundOn = s.soundOn := rfl

/-! ### State.setI -/

@[simp] theorem State.setI_V (s : State) (a : Half) : (s.setI a).V = s.V := rfl
@[simp] theorem State.setI_I (s : State) (a : Half) : (s.setI a).I = a := rfl
@[simp] theorem State.setI_pc (s : State) (a : Half) : (s.setI a).pc = s.pc := rfl
@[simp] theorem State.setI_sp (s : State) (a : Half) : (s.setI a).sp = s.sp := rfl
@[simp] theorem State.setI_stack (s : State) (a : Half) : (s.setI a).stack = s.stack := rfl
@[simp] theorem State.setI_DT (s : State) (a : Half) : (s.setI a).DT = s.DT := rfl
@[simp] theorem State.setI_ST (s : State) (a : Half) : (s.setI a).ST = s.ST := rfl
@[simp] theorem State.setI_mem (s : State) (a : Half) : (s.setI a).mem = s.mem := rfl
@[simp] theorem State.setI_fb (s : State) (a : Half) : (s.setI a).fb = s.fb := rfl
@[simp] theorem State.setI_keys (s : State) (a : Half) : (s.setI a).keys = s.keys := rfl
@[simp] theorem State.setI_run (s : State) (a : Half) : (s.setI a).run = s.run := rfl
@[simp] theorem State.setI_err (s : State) (a : Half) : (s.setI a).err = s.err := rfl
@[simp] theorem State.setI_started (s : State) (a : Half) : (s.setI a).started = s.started := rfl
@[simp] theorem State.setI_displayUpdates (s : State) (a : Half) : (s.setI a).displayUpdates = s.displayUpdates := rfl
@[simp] theorem State.setI_schedule (s : State) (a : Half) : (s.setI a).schedule = s.schedule := rfl
@[simp] theorem State.setI_rng (s : State) (a : Half) : (s.setI a).rng = s.rng := rfl
@[simp] theorem State.setI_draws (s : State) (a : Half) : (s.setI a).draws = s.draws := rfl
@[simp] theorem State.setI_getV (s : State) (a : Half) (y : RegIdx) : (s.setI a).getV y = s.getV y := rfl
@[simp] theorem State.setI_keyDown (s : State) (a : Half) (j : KeyIdx) : (s.setI a).keyDown j = s.keyDown j := rfl
@[simp] theorem State.setI_stackAt (s : State) (a : Half) (j : Nat) : (s.setI a).stackAt j = s.stackAt j := rfl
@[simp] theorem State.setI_regsTo (s : State) (a : Half) (y : RegIdx) : (s.setI a).regsTo y = s.regsTo y := rfl
@[simp] theorem State.setI_isHalted (s : State) (a : Half) : (s.setI a).isHalted = s.isHalted := rfl
@[simp] theorem State.setI_soundOn (s : State) (a : Half) : (s.setI a).soundOn = s.soundOn := rfl

/-! ### State.jump -/

@[simp] theorem State.jump_V (s : State) (a : Half) : (s.jump a).V = s.V := rfl
@[simp] theorem State.jump_I (s : State) (a : Half) : (s.jump a).I = s.I := rfl
@[simp] theorem State.jump_pc (s : State) (a : Half) : (s.jump a).pc = a := rfl
@[simp] theorem State.jump_sp (s : State) (a : Half) : (s.jump a).sp = s.sp := rfl
@[simp] theorem State.jump_stack (s : State) (a : Half) : (s.jump a).stack = s.stack := rfl
@[simp] theorem State.jump_DT (s : State) (a : Half) : (s.jump a).DT = s.DT := rfl
@[simp] theorem State.jump_ST (s : State) (a : Half) : (s.jump a).ST = s.ST := rfl
@[simp] theorem State.jump_mem (s : State) (a : Half) : (s.jump a).mem = s.mem := rfl
@[simp] theorem State.jump_fb (s : State) (a : Half) : (s.jump a).fb = s.fb := rfl
@[simp] theorem State.jump_keys (s : State) (a : Half) : (s.jump a).keys = s.keys := rfl
@[simp] theorem State.jump_run (s : State) (a : Half) : (s.jump a).run = s.run := rfl
@[simp] theorem State.jump_err (s : State) (a : Half) : (s.jump a).err = s.err := rfl
@[simp] theorem State.jump_started (s : State) (a : Half) : (s.jump a).started = s.started := rfl
@[simp] theorem State.jump_displayUpdates (s : State) (a : Half) : (s.jump a).displayUpdates = s.displayUpdates := rfl
@[simp] theorem State.jump_schedule (s : State) (a : Half) : (s.jump a).schedule = s.schedule := rfl
@[simp] theorem State.jump_rng (s : State) (a : Half) : (s.jump a).rng = s.rng := rfl
@[simp] theorem State.jump_draws (s : State) (a : Half) : (s.jump a).draws = s.draws := rfl
@[simp] theorem State.jump_getV (s : State) (a : Half) (y : RegIdx) : (s.jump a).getV y = s.getV y := rfl
@[simp] theorem State.jump_keyDown (s : State) (a : Half) (j : KeyIdx) : (s.jump a).keyDown j = s.keyDown j := rfl
@[simp] theorem State.jump_stackAt (s : State) (a : Half) (j : Nat) : (s.jump a).stackAt j = s.stackAt j := rfl
@[simp] theorem State.jump_base (s : State) (a : Half) : (s.jump a).base = s.base := rfl
@[simp] theorem State.jump_regsTo (s : State) (a : Half) (y : RegIdx) : (s.jump a).regsTo y = s.regsTo y := rfl
@[simp] theorem State.jump_isHalted (s : State) (a : Half) : (s.jump a).isHalted = s.isHalted := rfl
@[simp] theorem State.jump_soundOn (s : State) (a : Half) : (s.jump a).soundOn = s.soundOn := rfl

/-! ### State.advance -/

@[simp] theorem State.advance_V (s : State) : (s.advance).V = s.V := rfl
@[simp] theorem State.advance_I (s : State) : (s.advance).I = s.I := rfl
@[simp] theorem State.advance_pc (s : State) : (s.advance).pc = s.pc + 2 := rfl
@[simp] theorem State.advance_sp (s : State) : (s.advance).sp = s.sp := rfl
@[simp] theorem State.advance_stack (s : State) : (s.advance).stack = s.stack := rfl
@[simp] theorem State.advance_DT (s : State) : (s.advance).DT = s.DT := rfl
@[simp] theorem State.advance_ST (s : State) : (s.advance).ST = s.ST := rfl
@[simp] theorem State.advance_mem (s : State) : (s.advance).mem = s.mem := rfl
@[simp] theorem State.advance_fb (s : State) : (s.advance).fb = s.fb := rfl
@[simp] theorem State.advance_keys (s : State) : (s.advance).keys = s.keys := rfl
@[simp] theorem State.advance_run (s : State) : (s.advance).run = s.run := rfl
@[simp] theorem State.advance_err (s : State) : (s.advance).err = s.err := rfl
@[simp] theorem State.advance_started (s : State) : (s.advance).started = s.started := rfl
@[simp] theorem State.advance_displayUpdates (s : State) : (s.advance).displayUpdates = s.displayUpdates := rfl
@[simp] theorem State.advance_schedule (s : State) : (s.advance).schedule = s.schedule := rfl
@[simp] theorem State.advance_rng (s : State) : (s.advance).rng = s.rng := rfl
@[simp] theorem State.advance_draws (s : State) : (s.advance).draws = s.draws := rfl
@[simp] theorem State.advance_getV (s : State) (y : RegIdx) : (s.advance).getV y = s.getV y := rfl
@[simp] theorem State.advance_keyDown (s : State) (j : KeyIdx) : (s.advance).keyDown j = s.keyDown j := rfl
@[simp] theorem State.advance_stackAt (s : State) (j : Nat) : (s.advance).stackAt j = s.stackAt j := rfl
@[simp] theorem State.advance_base (s : State) : (s.advance).base = s.base := rfl
@[simp] theorem State.advance_regsTo (s : State) (y : RegIdx) : (s.advance).regsTo y = s.regsTo y := rfl
@[simp] theorem State.advance_isHalted (s : State) : (s.advance).isHalted = s.isHalted := rfl
@[simp] theorem State.advance_soundOn (s : State) : (s.advance).soundOn = s.soundOn := rfl

/-! ### State.skipIf -/

@[simp] theorem State.skipIf_V (s : State) (c : Bool) : (s.skipIf c).V = s.V := rfl
@[simp] theorem State.skipIf_I (s : State) (c : Bool) : (s.skipIf c).I = s.I := rfl
@[simp] theorem State.skipIf_pc (s : State) (c : Bool) : (s.skipIf c).pc = if c then s.pc + 4 else s.pc + 2 := rfl
@[simp] theorem State.skipIf_sp (s : State) (c : Bool) : (s.skipIf c).sp = s.sp := rfl
@[simp] theorem State.skipIf_stack (s : State) (c : Bool) : (s.skipIf c).stack = s.stack := rfl
@[simp] theorem State.skipIf_DT (s : State) (c : Bool) : (s.skipIf c).DT = s.DT := rfl
@[simp] theorem State.skipIf_ST (s : State) (c : Bool) : (s.skipIf c).ST = s.ST := rfl
@[simp] theorem State.skipIf_mem (s : State) (c : Bool) : (s.skipIf c).mem = s.mem := rfl
@[simp] theorem State.skipIf_fb (s : State) (c : Bool) : (s.skipIf c).fb = s.fb := rfl
@[simp] theorem State.skipIf_keys (s : State) (c : Bool) : (s.skipIf c).keys = s.keys := rfl
@[simp] theorem State.skipIf_run (s : State) (c : Bool) : (s.skipIf c).run = s.run := rfl
@[simp] theorem State.skipIf_err (s : State) (c : Bool) : (s.skipIf c).err = s.err := rfl
@[simp] theorem State.skipIf_started (s : State) (c : Bool) : (s.skipIf c).started = s.started := rfl
@[simp] theorem State.skipIf_displayUpdates (s : State) (c : Bool) : (s.skipIf c).displayUpdates = s.displayUpdates := rfl
@[simp] theorem State.skipIf_schedule (s : State) (c : Bool) : (s.skipIf c).schedule = s.schedule := rfl
@[simp] theorem State.skipIf_rng (s : State) (c : Bool) : (s.skipIf c).rng = s.rng := rfl
@[simp] theorem State.skipIf_draws (s : State) (c : Bool) : (s.skipIf c).draws = s.draws := rfl
@[simp] theorem State.skipIf_getV (s : State) (c : Bool) (y : RegIdx) : (s.skipIf c).getV y = s.getV y := rfl
@[simp] theorem State.skipIf_keyDown (s : State) (c : Bool) (j : KeyIdx) : (s.skipIf c).keyDown j = s.keyDown j := rfl
@[simp] theorem State.skipIf_stackAt (s : State) (c : Bool) (j : Nat) : (s.skipIf c).stackAt j = s.stackAt j := rfl
@[simp] theorem State.skipIf_base (s : State) (c : Bool) : (s.skipIf c).base = s.base := rfl
@[simp] theorem State.skipIf_regsTo (s : State) (c : Bool) (y : RegIdx) : (s.skipIf c).regsTo y = s.regsTo y := rfl
@[simp] theorem State.skipIf_isHalted (s : State) (c : Bool) : (s.skipIf c).isHalted = s.isHalted := rfl
@[simp] theorem State.skipIf_soundOn (s : State) (c : Bool) : (s.skipIf c).soundOn = s.soundOn := rfl

/-! ### State.setDT -/

@[simp] theorem State.setDT_V (s : State) (b : Byte) : (s.setDT b).V = s.V := rfl
@[simp] theorem State.setDT_I (s : State) (b : Byte) : (s.setDT b).I = s.I := rfl
@[simp] theorem State.setDT_pc (s : State) (b : Byte) : (s.setDT b).pc = s.pc := rfl
@[simp] theorem State.setDT_sp (s : State) (b : Byte) : (s.setDT b).sp = s.sp := rfl
@[simp] theorem State.setDT_stack (s : State) (b : Byte) : (s.setDT b).stack = s.stack := rfl
@[simp] theorem State.setDT_DT (s : State) (b : Byte) : (s.setDT b).DT = b := rfl
@[simp] theorem State.setDT_ST (s : State) (b : Byte) : (s.setDT b).ST = s.ST := rfl
@[simp] theorem State.setDT_mem (s : State) (b : Byte) : (s.setDT b).mem = s.mem := rfl
@[simp] theorem State.setDT_fb (s : State) (b : Byte) : (s.setDT b).fb = s.fb := rfl
@[simp] theorem State.setDT_keys (s : State) (b : Byte) : (s.setDT b).keys = s.keys := rfl
@[simp] theorem State.setDT_run (s : State) (b : Byte) : (s.setDT b).run = s.run := rfl
@[simp] theorem State.setDT_err (s : State) (b : Byte) : (s.setDT b).err = s.err := rfl
@[simp] theorem State.setDT_started (s : State) (b : Byte) : (s.setDT b).started = s.started := rfl
@[simp] theorem State.setDT_displayUpdates (s : State) (b : Byte) : (s.setDT b).displayUpdates = s.displayUpdates := rfl
@[simp] theorem State.setDT_schedule (s : State) (b : Byte) : (s.setDT b).schedule = s.schedule := rfl
@[simp] theorem State.setDT_rng (s : State) (b : Byte) : (s.setDT b).rng = s.rng := rfl
@[simp] theorem State.setDT_draws (s : State) (b : Byte) : (s.setDT b).draws = s.draws := rfl
@[simp] theorem State.setDT_getV (s : State) (b : Byte) (y : RegIdx) : (s.setDT b).getV y = s.getV y := rfl
@[simp] theorem State.setDT_keyDown (s : State) (b : Byte) (j : KeyIdx) : (s.setDT b).keyDown j = s.keyDown j := rfl
@[simp] theorem State.setDT_stackAt (s : State) (b : Byte) (j : Nat) : (s.setDT b).stackAt j = s.stackAt j := rfl
@[simp] theorem State.setDT_base (s : State) (b : Byte) : (s.setDT b).base = s.base := rfl
@[simp] theorem State.setDT_regsTo (s : State) (b : Byte) (y : RegIdx) : (s.setDT b).regsTo y = s.regsTo y := rfl
@[simp] theorem State.setDT_isHalted (s : State) (b : Byte) : (s.setDT b).isHalted = s.isHalted := rfl
@[simp] theorem State.setDT_soundOn (s : State) (b : Byte) : (s.setDT b).soundOn = s.soundOn := rfl

/-! ### State.setST -/

@[simp] theorem State.setST_V (s : State) (b : Byte) : (s.setST b).V = s.V := rfl
@[simp] theorem State.setST_I (s : State) (b : Byte) : (s.setST b).I = s.I := rfl
@[simp] theorem State.setST_pc (s : State) (b : Byte) : (s.setST b).pc = s.pc := rfl
@[simp] theorem State.setST_sp (s : State) (b : Byte) : (s.setST b).sp = s.sp := rfl
@[simp] theorem State.setST_stack (s : State) (b : Byte) : (s.setST b).stack = s.stack := rfl
@[simp] theorem State.setST_DT (s : State) (b : Byte) : (s.setST b).DT = s.DT := rfl
@[simp] theorem State.setST_ST (s : State) (b : Byte) : (s.setST b).ST = b := rfl
@[simp] theorem State.setST_mem (s : State) (b : Byte) : (s.setST b).mem = s.mem := rfl
@[simp] theorem State.setST_fb (s : State) (b : Byte) : (s.setST b).fb = s.fb := rfl
@[simp] theorem State.setST_keys (s : State) (b : Byte) : (s.setST b).keys = s.keys := rfl
@[simp] theorem State.setST_run (s : State) (b : Byte) : (s.setST b).run = s.run := rfl
@[simp] theorem State.setST_err (s : State) (b : Byte) : (s.setST b).err = s.err := rfl
@[simp] theorem State.setST_started (s : State) (b : Byte) : (s.setST b).started = s.started := rfl
@[simp] theorem State.setST_displayUpdates (s : State) (b : Byte) : (s.setST b).displayUpdates = s.displayUpdates := rfl
@[simp] theorem State.setST_schedule (s : State) (b : Byte) : (s.setST b).schedule = s.schedule := rfl
@[simp] theorem State.setST_rng (s : State) (b : Byte) : (s.setST b).rng = s.rng := rfl
@[simp] theorem State.setST_draws (s : State) (b : Byte) : (s.setST b).draws = s.draws := rfl
@[simp] theorem State.setST_getV (s : State) (b : Byte) (y : RegIdx) : (s.setST b).getV y = s.getV y := rfl
@[simp] theorem State.setST_keyDown (s : State) (b : Byte) (j : KeyIdx) : (s.setST b).keyDown j = s.keyDown j := rfl
@[simp] theorem State.setST_stackAt (s : State) (b : Byte) (j : Nat) : (s.setST b).stackAt j = s.stackAt j := rfl
@[simp] theorem State.setST_base (s : State) (b : Byte) : (s.setST b).base = s.base := rfl
@[simp] theorem State.setST_regsTo (s : State) (b : Byte) (y : RegIdx) : (s.setST b).regsTo y = s.regsTo y := rfl
@[simp] theorem State.setST_isHalted (s : State) (b : Byte) : (s.setST b).isHalted = s.isHalted := rfl

/-! ### State.setMem -/

@[simp] theorem State.setMem_V (s : State) (m : Memory) : (s.setMem m).V = s.V := rfl
@[simp] theorem State.setMem_I (s : State) (m : Memory) : (s.setMem m).I = s.I := rfl
@[simp] theorem State.setMem_pc (s : State) (m : Memory) : (s.setMem m).pc = s.pc := rfl
@[simp] theorem State.setMem_sp (s : State) (m : Memory) : (s.setMem m).sp = s.sp := rfl
@[simp] theorem State.setMem_stack (s : State) (m : Memory) : (s.setMem m).stack = s.stack := rfl
@[simp] theorem State.setMem_DT (s : State) (m : Memory) : (s.setMem m).DT = s.DT := rfl
@[simp] theorem State.setMem_ST (s : State) (m : Memory) : (s.setMem m).ST = s.ST := rfl
@[simp] theorem State.setMem_mem (s : State) (m : Memory) : (s.setMem m).mem = m := rfl
@[simp] theorem State.setMem_fb (s : State) (m : Memory) : (s.setMem m).fb = s.fb := rfl
@[simp] theorem State.setMem_keys (s : State) (m : Memory) : (s.setMem m).keys = s.keys := rfl
@[simp] theorem State.setMem_run (s : State) (m : Memory) : (s.setMem m).run = s.run := rfl
@[simp] theorem State.setMem_err (s : State) (m : Memory) : (s.setMem m).err = s.err := rfl
@[simp] theorem State.setMem_started (s : State) (m : Memory) : (s.setMem m).started = s.started := rfl
@[simp] theorem State.setMem_displayUpdates (s : State) (m : Memory) : (s.setMem m).displayUpdates = s.displayUpdates := rfl
@[simp] theorem State.setMem_schedule (s : State) (m : Memory) : (s.setMem m).schedule = s.schedule := rfl
@[simp] theorem State.setMem_rng (s : State) (m : Memory) : (s.setMem m).rng = s.rng := rfl
@[simp] theorem State.setMem_draws (s : State) (m : Memory) : (s.setMem m).draws = s.draws := rfl
@[simp] theorem State.setMem_getV (s : State) (m : Memory) (y : RegIdx) : (s.setMem m).getV y = s.getV y := rfl
@[simp] theorem State.setMem_keyDown (s : State) (m : Memory) (j : KeyIdx) : (s.setMem m).keyDown j = s.keyDown j := rfl
@[simp] theorem State.setMem_stackAt (s : State) (m : Memory) (j : Nat) : (s.setMem m).stackAt j = s.stackAt j := rfl
@[simp] theorem State.setMem_base (s : State) (m : Memory) : (s.setMem m).base = s.base := rfl
@[simp] theorem State.setMem_regsTo (s : State) (m : Memory) (y : RegIdx) : (s.setMem m).regsTo y = s.regsTo y := rfl
@[simp] theorem State.setMem_isHalted (s : State) (m : Memory) : (s.setMem m).isHalted = s.isHalted := rfl
@[simp] theorem State.setMem_soundOn (s : State) (m : Memory) : (s.setMem m).soundOn = s.soundOn := rfl

/-! ### State.setRun -/

@[simp] theorem State.setRun_V (s : State) (r : RunState) : (s.setRun r).V = s.V := rfl
@[simp] theorem State.setRun_I (s : State) (r : RunState) : (s.setRun r).I = s.I := rfl
@[simp] theorem State.setRun_pc (s : State) (r : RunState) : (s.setRun r).pc = s.pc := rfl
@[simp] theorem State.setRun_sp (s : State) (r : RunState) : (s.setRun r).sp = s.sp := rfl
@[simp] theorem State.setRun_stack (s : State) (r : RunState) : (s.setRun r).stack = s.stack := rfl
@[simp] theorem State.setRun_DT (s : State) (r : RunState) : (s.setRun r).DT = s.DT := rfl
@[simp] theorem State.setRun_ST (s : State) (r : RunState) : (s.setRun r).ST = s.ST := rfl
@[simp] theorem State.setRun_mem (s : State) (r : RunState) : (s.setRun r).mem = s.mem := rfl
@[simp] theorem State.setRun_fb (s : State) (r : RunState) : (s.setRun r).fb = s.fb := rfl
@[simp] theorem State.setRun_keys (s : State) (r : RunState) : (s.setRun r).keys = s.keys := rfl
@[simp] theorem State.setRun_run (s : State) (r : RunState) : (s.setRun r).run = r := rfl
@[simp] theorem State.setRun_err (s : State) (r : RunState) : (s.setRun r).err = s.err := rfl
@[simp] theorem State.setRun_started (s : State) (r : RunState) : (s.setRun r).started = s.started := rfl
@[simp] theorem State.setRun_displayUpdates (s : State) (r : RunState) : (s.setRun r).displayUpdates = s.displayUpdates := rfl
@[simp] theorem State.setRun_schedule (s : State) (r : RunState) : (s.setRun r).schedule = s.schedule := rfl
@[simp] theorem State.setRun_rng (s : State) (r : RunState) : (s.setRun r).rng = s.rng := rfl
@[simp] theorem State.setRun_draws (s : State) (r : RunState) : (s.setRun r).draws = s.draws := rfl
@[simp] theorem State.setRun_getV (s : State) (r : RunState) (y : RegIdx) : (s.setRun r).getV y = s.getV y := rfl
@[simp] theorem State.setRun_keyDown (s : State) (r : RunState) (j : KeyIdx) : (s.setRun r).keyDown j = s.keyDown j := rfl
@[simp] theorem State.setRun_stackAt (s : State) (r : RunState) (j : Nat) : (s.setRun r).stackAt j = s.stackAt j := rfl
@[simp] theorem State.setRun_base (s : State) (r : RunState) : (s.setRun r).base = s.base := rfl
@[simp] theorem State.setRun_regsTo (s : State) (r : RunState) (y : RegIdx) : (s.setRun r).regsTo y = s.regsTo y := rfl
@[simp] theorem State.setRun_soundOn (s : State) (r : RunState) : (s.setRun r).soundOn = s.soundOn := rfl

/-! ### State.push -/

@[simp] theorem State.push_V (s : State) (a : Half) : (s.push a).V = s.V := rfl
@[simp] theorem State.push_I (s : State) (a : Half) : (s.push a).I = s.I := rfl
@[simp] theorem State.push_pc (s : State) (a : Half) : (s.push a).pc = s.pc := rfl
@[simp] theorem State.push_sp (s : State) (a : Half) : (s.push a).sp = s.sp + 1 := rfl
@[simp] theorem State.push_stack (s : State) (a : Half) : (s.push a).stack = s.stack.setIfInBounds s.sp.toNat a := rfl
@[simp] theorem State.push_DT (s : State) (a : Half) : (s.push a).DT = s.DT := rfl
@[simp] theorem State.push_ST (s : State) (a : Half) : (s.push a).ST = s.ST := rfl
@[simp] theorem State.push_mem (s : State) (a : Half) : (s.push a).mem = s.mem := rfl
@[simp] theorem State.push_fb (s : State) (a : Half) : (s.push a).fb = s.fb := rfl
@[simp] theorem State.push_keys (s : State) (a : Half) : (s.push a).keys = s.keys := rfl
@[simp] theorem State.push_run (s : State) (a : Half) : (s.push a).run = s.run := rfl
@[simp] theorem State.push_err (s : State) (a : Half) : (s.push a).err = s.err := rfl
@[simp] theorem State.push_started (s : State) (a : Half) : (s.push a).started = s.started := rfl
@[simp] theorem State.push_displayUpdates (s : State) (a : Half) : (s.push a).displayUpdates = s.displayUpdates := rfl
@[simp] theorem State.push_schedule (s : State) (a : Half) : (s.push a).schedule = s.schedule := rfl
@[simp] theorem State.push_rng (s : State) (a : Half) : (s.push a).rng = s.rng := rfl
@[simp] theorem State.push_draws (s : State) (a : Half) : (s.push a).draws = s.draws := rfl
@[simp] theorem State.push_getV (s : State) (a : Half) (y : RegIdx) : (s.push a).getV y = s.getV y := rfl
@[simp] theorem State.push_keyDown (s : State) (a : Half) (j : KeyIdx) : (s.push a).keyDown j = s.keyDown j := rfl
@[simp] theorem State.push_base (s : State) (a : Half) : (s.push a).base = s.base := rfl
@[simp] theorem State.push_regsTo (s : State) (a : Half) (y : RegIdx) : (s.push a).regsTo y = s.regsTo y := rfl
@[simp] theorem State.push_isHalted (s : State) (a : Half) : (s.push a).isHalted = s.isHalted := rfl
@[simp] theorem State.push_soundOn (s : State) (a : Half) : (s.push a).soundOn = s.soundOn := rfl

/-! ### State.dropTop -/

@[simp] theorem State.dropTop_V (s : State) : (s.dropTop).V = s.V := rfl
@[simp] theorem State.dropTop_I (s : State) : (s.dropTop).I = s.I := rfl
@[simp] theorem State.dropTop_pc (s : State) : (s.dropTop).pc = s.pc := rfl
@[simp] theorem State.dropTop_sp (s : State) : (s.dropTop).sp = s.sp - 1 := rfl
@[simp] theorem State.dropTop_stack (s : State) : (s.dropTop).stack = s.stack := rfl
@[simp] theorem State.dropTop_DT (s : State) : (s.dropTop).DT = s.DT := rfl
@[simp] theorem State.dropTop_ST (s : State) : (s.dropTop).ST = s.ST := rfl
@[simp] theorem State.dropTop_mem (s : State) : (s.dropTop).mem = s.mem := rfl
@[simp] theorem State.dropTop_fb (s : State) : (s.dropTop).fb = s.fb := rfl
@[simp] theorem State.dropTop_keys (s : State) : (s.dropTop).keys = s.keys := rfl
@[simp] theorem State.dropTop_run (s : State) : (s.dropTop).run = s.run := rfl
@[simp] theorem State.dropTop_err (s : State) : (s.dropTop).err = s.err := rfl
@[simp] theorem State.dropTop_started (s : State) : (s.dropTop).started = s.started := rfl
@[simp] theorem State.dropTop_displayUpdates (s : State) : (s.dropTop).displayUpdates = s.displayUpdates := rfl
@[simp] theorem State.dropTop_schedule (s : State) : (s.dropTop).schedule = s.schedule := rfl
@[simp] theorem State.dropTop_rng (s : State) : (s.dropTop).rng = s.rng := rfl
@[simp] theorem State.dropTop_draws (s : State) : (s.dropTop).draws = s.draws := rfl
@[simp] theorem State.dropTop_getV (s : State) (y : RegIdx) : (s.dropTop).getV y = s.getV y := rfl
@[simp] theorem State.dropTop_keyDown (s : State) (j : KeyIdx) : (s.dropTop).keyDown j = s.keyDown j := rfl
@[simp] theorem State.dropTop_stackAt (s : State) (j : Nat) : (s.dropTop).stackAt j = s.stackAt j := rfl
@[simp] theorem State.dropTop_base (s : State) : (s.dropTop).base = s.base := rfl
@[simp] theorem State.dropTop_regsTo (s : State) (y : RegIdx) : (s.dropTop).regsTo y = s.regsTo y := rfl
@[simp] theorem State.dropTop_isHalted (s : State) : (s.dropTop).isHalted = s.isHalted := rfl
@[simp] theorem State.dropTop_soundOn (s : State) : (s.dropTop).soundOn = s.soundOn := rfl

/-! ### State.showFb -/

@[simp] theorem State.showFb_V (s : State) (f : FrameBuffer) : (s.showFb f).V = s.V := rfl
@[simp] theorem State.showFb_I (s : State) (f : FrameBuffer) : (s.showFb f).I = s.I := rfl
@[simp] theorem State.showFb_pc (s : State) (f : FrameBuffer) : (s.showFb f).pc = s.pc := rfl
@[simp] theorem State.showFb_sp (s : State) (f : FrameBuffer) : (s.showFb f).sp = s.sp := rfl
@[simp] theorem State.showFb_stack (s : State) (f : FrameBuffer) : (s.showFb f).stack = s.stack := rfl
@[simp] theorem State.showFb_DT (s : State) (f : FrameBuffer) : (s.showFb f).DT = s.DT := rfl
@[simp] theorem State.showFb_ST (s : State) (f : FrameBuffer) : (s.showFb f).ST = s.ST := rfl
@[simp] theorem State.showFb_mem (s : State) (f : FrameBuffer) : (s.showFb f).mem = s.mem := rfl
@[simp] theorem State.showFb_fb (s : State) (f : FrameBuffer) : (s.showFb f).fb = f := rfl
@[simp] theorem State.showFb_keys (s : State) (f : FrameBuffer) : (s.showFb f).keys = s.keys := rfl
@[simp] theorem State.showFb_run (s : State) (f : FrameBuffer) : (s.showFb f).run = s.run := rfl
@[simp] theorem State.showFb_err (s : State) (f : FrameBuffer) : (s.showFb f).err = s.err := rfl
@[simp] theorem State.showFb_started (s : State) (f : FrameBuffer) : (s.showFb f).started = s.started := rfl
@[simp] theorem State.showFb_displayUpdates (s : State) (f : FrameBuffer) : (s.showFb f).displayUpdates = s.displayUpdates + 1 := rfl
@[simp] theorem State.showFb_schedule (s : State) (f : FrameBuffer) : (s.showFb f).schedule = s.schedule := rfl
@[simp] theorem State.showFb_rng (s : State) (f : FrameBuffer) : (s.showFb f).rng = s.rng := rfl
@[simp] theorem State.showFb_draws (s : State) (f : FrameBuffer) : (s.showFb f).draws = s.draws := rfl
@[simp] theorem State.showFb_getV (s : State) (f : FrameBuffer) (y : RegIdx) : (s.showFb f).getV y = s.getV y := rfl
@[simp] theorem State.showFb_keyDown (s : State) (f : FrameBuffer) (j : KeyIdx) : (s.showFb f).keyDown j = s.keyDown j := rfl
@[simp] theorem State.showFb_stackAt (s : State) (f : FrameBuffer) (j : Nat) : (s.showFb f).stackAt j = s.stackAt j := rfl
@[simp] theorem State.showFb_base (s : State) (f : FrameBuffer) : (s.showFb f).base = s.base := rfl
@[simp] theorem State.showFb_regsTo (s : State) (f : FrameBuffer) (y : RegIdx) : (s.showFb f).regsTo y = s.regsTo y := rfl
@[simp] theorem State.showFb_isHalted (s : State) (f : FrameBuffer) : (s.showFb f).isHalted = s.isHalted := rfl
@[simp] theorem State.showFb_soundOn (s : State) (f : FrameBuffer) : (s.showFb f).soundOn = s.soundOn := rfl

/-! ### State.setKey -/

@[simp] theorem State.setKey_V (s : State) (k : KeyIdx) (b : Bool) : (s.setKey k b).V = s.V := rfl
@[simp] theorem State.setKey_I (s : State) (k : KeyIdx) (b : Bool) : (s.setKey k b).I = s.I := rfl
@[simp] theorem State.setKey_pc (s : State) (k : KeyIdx) (b : Bool) : (s.setKey k b).pc = s.pc := rfl
@[simp] theorem State.setKey_sp (s : State) (k : KeyIdx) (b : Bool) : (s.setKey k b).sp = s.sp := rfl
@[simp] theorem State.setKey_stack (s : State) (k : KeyIdx) (b : Bool) : (s.setKey k b).stack = s.stack := rfl
@[simp] theorem State.setKey_DT (s : State) (k : KeyIdx) (b : Bool) : (s.setKey k b).DT = s.DT := rfl
@[simp] theorem State.setKey_ST (s : State) (k : KeyIdx) (b : Bool) : (s.setKey k b).ST = s.ST := rfl
@[simp] theorem State.setKey_mem (s : State) (k : KeyIdx) (b : Bool) : (s.setKey k b).mem = s.mem := rfl
@[simp] theorem State.setKey_fb (s : State) (k : KeyIdx) (b : Bool) : (s.setKey k b).fb = s.fb := rfl
@[simp] theorem State.setKey_keys (s : State) (k : KeyIdx) (b : Bool) : (s.setKey k b).keys = s.keys.set k.toNat b k.isLt := rfl
@[simp] theorem State.setKey_run (s : State) (k : KeyIdx) (b : Bool) : (s.setKey k b).run = s.run := rfl
@[simp] theorem State.setKey_err (s : State) (k : KeyIdx) (b : Bool) : (s.setKey k b).err = s.err := rfl
@[simp] theorem State.setKey_started (s : State) (k : KeyIdx) (b : Bool) : (s.setKey k b).started = s.started := rfl
@[simp] theorem State.setKey_displayUpdates (s : State) (k : KeyIdx) (b : Bool) : (s.setKey k b).displayUpdates = s.displayUpdates := rfl
@[simp] theorem State.setKey_schedule (s : State) (k : KeyIdx) (b : Bool) : (s.setKey k b).schedule = s.schedule := rfl
@[simp] theorem State.setKey_rng (s : State) (k : KeyIdx) (b : Bool) : (s.setKey k b).rng = s.rng := rfl
@[simp] theorem State.setKey_draws (s : State) (k : KeyIdx) (b : Bool) : (s.setKey k b).draws = s.draws := rfl
@[simp] theorem State.setKey_getV (s : State) (k : KeyIdx) (b : Bool) (y : RegIdx) : (s.setKey k b).getV y = s.getV y := rfl
@[simp] theorem State.setKey_stackAt (s : State) (k : KeyIdx) (b : Bool) (j : Nat) : (s.setKey k b).stackAt j = s.stackAt j := rfl
@[simp] theorem State.setKey_base (s : State) (k : KeyIdx) (b : Bool) : (s.setKey k b).base = s.base := rfl
@[simp] theorem State.setKey_regsTo (s : State) (k : KeyIdx) (b : Bool) (y : RegIdx) : (s.setKey k b).regsTo y = s.regsTo y := rfl
@[simp] theorem State.setKey_isHalted (s : State) (k : KeyIdx) (b : Bool) : (s.setKey k b).isHalted = s.isHalted := rfl
@[simp] theorem State.setKey_soundOn (s : State) (k : KeyIdx) (b : Bool) : (s.setKey k b).soundOn = s.soundOn := rfl

/-! ### State.raise -/

@[simp] theorem State.raise_V (s : State) (e : ErrKind) (n : Nat) : (s.raise e n).V = s.V := rfl
@[simp] theorem State.raise_I (s : State) (e : ErrKind) (n : Nat) : (s.raise e n).I = s.I := rfl
@[simp] theorem State.raise_pc (s : State) (e : ErrKind) (n : Nat) : (s.raise e n).pc = s.pc := rfl
@[simp] theorem State.raise_sp (s : State) (e : ErrKind) (n : Nat) : (s.raise e n).sp = s.sp := rfl
@[simp] theorem State.raise_stack (s : State) (e : ErrKind) (n : Nat) : (s.raise e n).stack = s.stack := rfl
@[simp] theorem State.raise_DT (s : State) (e : ErrKind) (n : Nat) : (s.raise e n).DT = s.DT := rfl
@[simp] theorem State.raise_ST (s : State) (e : ErrKind) (n : Nat) : (s.raise e n).ST = s.ST := rfl
@[simp] theorem State.raise_mem (s : State) (e : ErrKind) (n : Nat) : (s.raise e n).mem = s.mem := rfl
@[simp] theorem State.raise_fb (s : State) (e : ErrKind) (n : Nat) : (s.raise e n).fb = s.fb := rfl
@[simp] theorem State.raise_keys (s : State) (e : ErrKind) (n : Nat) : (s.raise e n).keys = s.keys := rfl
@[simp] theorem State.raise_run (s : State) (e : ErrKind) (n : Nat) : (s.raise e n).run = .halted := rfl
@[simp] theorem State.raise_err (s : State) (e : ErrKind) (n : Nat) : (s.raise e n).err = some ⟨e, s.pc, n⟩ := rfl
@[simp] theorem State.raise_started (s : State) (e : ErrKind) (n : Nat) : (s.raise e n).started = s.started := rfl
@[simp] theorem State.raise_displayUpdates (s : State) (e : ErrKind) (n : Nat) : (s.raise e n).displayUpdates = s.displayUpdates := rfl
@[simp] theorem State.raise_schedule (s : State) (e : ErrKind) (n : Nat) : (s.raise e n).schedule = s.schedule := rfl
@[simp] theorem State.raise_rng (s : State) (e : ErrKind) (n : Nat) : (s.raise e n).rng = s.rng := rfl
@[simp] theorem State.raise_draws (s : State) (e : ErrKind) (n : Nat) : (s.raise e n).draws = s.draws := rfl
@[simp] theorem State.raise_getV (s : State) (e : ErrKind) (n : Nat) (y : RegIdx) : (s.raise e n).getV y = s.getV y := rfl
@[simp] theorem State.raise_keyDown (s : State) (e : ErrKind) (n : Nat) (j : KeyIdx) : (s.raise e n).keyDown j = s.keyDown j := rfl
@[simp] theorem State.raise_stackAt (s : State) (e : ErrKind) (n : Nat) (j : Nat) : (s.raise e n).stackAt j = s.stackAt j := rfl
@[simp] theorem State.raise_base (s : State) (e : ErrKind) (n : Nat) : (s.raise e n).base = s.base := rfl
@[simp] theorem State.raise_regsTo (s : State) (e : ErrKind) (n : Nat) (y : RegIdx) : (s.raise e n).regsTo y = s.regsTo y := rfl
@[simp] theorem State.raise_soundOn (s : State) (e : ErrKind) (n : Nat) : (s.raise e n).soundOn = s.soundOn := rfl

/-! ### State.afterDraw -/

@[simp] theorem State.afterDraw_V (s : State) : (s.afterDraw).V = s.V := rfl
@[simp] theorem State.afterDraw_I (s : State) : (s.afterDraw).I = s.I := rfl
@[simp] theorem State.afterDraw_pc (s : State) : (s.afterDraw).pc = s.pc := rfl
@[simp] theorem State.afterDraw_sp (s : State) : (s.afterDraw).sp = s.sp := rfl
@[simp] theorem State.afterDraw_stack (s : State) : (s.afterDraw).stack = s.stack := rfl
@[simp] theorem State.afterDraw_DT (s : State) : (s.afterDraw).DT = s.DT := rfl
@[simp] theorem State.afterDraw_ST (s : State) : (s.afterDraw).ST = s.ST := rfl
@[simp] theorem State.afterDraw_mem (s : State) : (s.afterDraw).mem = s.mem := rfl
@[simp] theorem State.afterDraw_fb (s : State) : (s.afterDraw).fb = s.fb := rfl
@[simp] theorem State.afterDraw_keys (s : State) : (s.afterDraw).keys = s.keys := rfl
@[simp] theorem State.afterDraw_run (s : State) : (s.afterDraw).run = s.run := rfl
@[simp] theorem State.afterDraw_err (s : State) : (s.afterDraw).err = s.err := rfl
@[simp] theorem State.afterDraw_started (s : State) : (s.afterDraw).started = s.started := rfl
@[simp] theorem State.afterDraw_displayUpdates (s : State) : (s.afterDraw).displayUpdates = s.displayUpdates := rfl
@[simp] theorem State.afterDraw_schedule (s : State) : (s.afterDraw).schedule = s.schedule := rfl
@[simp] theorem State.afterDraw_rng (s : State) : (s.afterDraw).rng = s.rng.tail := rfl
@[simp] theorem State.afterDraw_draws (s : State) : (s.afterDraw).draws = s.draws + 1 := rfl
@[simp] theorem State.afterDraw_getV (s : State) (y : RegIdx) : (s.afterDraw).getV y = s.getV y := rfl
@[simp] theorem State.afterDraw_keyDown (s : State) (j : KeyIdx) : (s.afterDraw).keyDown j = s.keyDown j := rfl
@[simp] theorem State.afterDraw_stackAt (s : State) (j : Nat) : (s.afterDraw).stackAt j = s.stackAt j := rfl
@[simp] theorem State.afterDraw_base (s : State) : (s.afterDraw).base = s.base := rfl
@[simp] theorem State.afterDraw_regsTo (s : State) (y : RegIdx) : (s.afterDraw).regsTo y = s.regsTo y := rfl
@[simp] theorem State.afterDraw_isHalted (s : State) : (s.afterDraw).isHalted = s.isHalted := rfl
@[simp] theorem State.afterDraw_soundOn (s : State) : (s.afterDraw).soundOn = s.soundOn := rfl

/-! ### State.ticked -/

@[simp] theorem State.ticked_V (s : State) : (s.ticked).V = s.V := rfl
@[simp] theorem State.ticked_I (s : State) : (s.ticked).I = s.I := rfl
@[simp] theorem State.ticked_pc (s : State) : (s.ticked).pc = s.pc := rfl
@[simp] theorem State.ticked_sp (s : State) : (s.ticked).sp = s.sp := rfl
@[simp] theorem State.ticked_stack (s : State) : (s.ticked).stack = s.stack := rfl
@[simp] theorem State.ticked_DT (s : State) : (s.ticked).DT = tickDown s.DT := rfl
@[simp] theorem State.ticked_ST (s : State) : (s.ticked).ST = tickDown s.ST := rfl
@[simp] theorem State.ticked_mem (s : State) : (s.ticked).mem = s.mem := rfl
@[simp] theorem State.ticked_fb (s : State) : (s.ticked).fb = s.fb := rfl
@[simp] theorem State.ticked_keys (s : State) : (s.ticked).keys = s.keys := rfl
@[simp] theorem State.ticked_run (s : State) : (s.ticked).run = s.run := rfl
@[simp] theorem State.ticked_err (s : State) : (s.ticked).err = s.err := rfl
@[simp] theorem State.ticked_started (s : State) : (s.ticked).started = s.started := rfl
@[simp] theorem State.ticked_displayUpdates (s : State) : (s.ticked).displayUpdates = s.displayUpdates := rfl
@[simp] theorem State.ticked_schedule (s : State) : (s.ticked).schedule = s.schedule := rfl
@[simp] theorem State.ticked_rng (s : State) : (s.ticked).rng = s.rng := rfl
@[simp] theorem State.ticked_draws (s : State) : (s.ticked).draws = s.draws := rfl
@[simp] theorem State.ticked_getV (s : State) (y : RegIdx) : (s.ticked).getV y = s.getV y := rfl
@[simp] theorem State.ticked_keyDown (s : State) (j : KeyIdx) : (s.ticked).keyDown j = s.keyDown j := rfl
@[simp] theorem State.ticked_stackAt (s : State) (j : Nat) : (s.ticked).stackAt j = s.stackAt j := rfl
@[simp] theorem State.ticked_base (s : State) : (s.ticked).base = s.base := rfl
@[simp] theorem State.ticked_regsTo (s : State) (y : RegIdx) : (s.ticked).regsTo y = s.regsTo y := rfl
@[simp] theorem State.ticked_isHalted (s : State) : (s.ticked).isHalted = s.isHalted := rfl

/-! ### State.popEvent -/

@[simp] theorem State.popEvent_V (s : State) : (s.popEvent).V = s.V := rfl
@[simp] theorem State.popEvent_I (s : State) : (s.popEvent).I = s.I := rfl
@[simp] theorem State.popEvent_pc (s : State) : (s.popEvent).pc = s.pc := rfl
@[simp] theorem State.popEvent_sp (s : State) : (s.popEvent).sp = s.sp := rfl
@[simp] theorem State.popEvent_stack (s : State) : (s.popEvent).stack = s.stack := rfl
@[simp] theorem State.popEvent_DT (s : State) : (s.popEvent).DT = s.DT := rfl
@[simp] theorem State.popEvent_ST (s : State) : (s.popEvent).ST = s.ST := rfl
@[simp] theorem State.popEvent_mem (s : State) : (s.popEvent).mem = s.mem := rfl
@[simp] theorem State.popEvent_fb (s : State) : (s.popEvent).fb = s.fb := rfl
@[simp] theorem State.popEvent_keys (s : State) : (s.popEvent).keys = s.keys := rfl
@[simp] theorem State.popEvent_run (s : State) : (s.popEvent).run = s.run := rfl
@[simp] theorem State.popEvent_err (s : State) : (s.popEvent).err = s.err := rfl
@[simp] theorem State.popEvent_started (s : State) : (s.popEvent).started = s.started := rfl
@[simp] theorem State.popEvent_displayUpdates (s : State) : (s.popEvent).displayUpdates = s.displayUpdates := rfl
@[simp] theorem State.popEvent_schedule (s : State) : (s.popEvent).schedule = s.schedule.tail := rfl
@[simp] theorem State.popEvent_rng (s : State) : (s.popEvent).rng = s.rng := rfl
@[simp] theorem State.popEvent_draws (s : State) : (s.popEvent).draws = s.draws := rfl
@[simp] theorem State.popEvent_getV (s : State) (y : RegIdx) : (s.popEvent).getV y = s.getV y := rfl
@[simp] theorem State.popEvent_keyDown (s : State) (j : KeyIdx) : (s.popEvent).keyDown j = s.keyDown j := rfl
@[simp] theorem State.popEvent_stackAt (s : State) (j : Nat) : (s.popEvent).stackAt j = s.stackAt j := rfl
@[simp] theorem State.popEvent_base (s : State) : (s.popEvent).base = s.base := rfl
@[simp] theorem State.popEvent_regsTo (s : State) (y : RegIdx) : (s.popEvent).regsTo y = s.regsTo y := rfl
@[simp] theorem State.popEvent_isHalted (s : State) : (s.popEvent).isHalted = s.isHalted := rfl
@[simp] theorem State.popEvent_soundOn (s : State) : (s.popEvent).soundOn = s.soundOn := rfl

/-! ### Indexed reads after indexed writes -/

theorem RegIdx.toFin_eq_iff (x y : RegIdx) : x.toFin = y.toFin ↔ x = y :=
  ⟨fun h => BitVec.eq_of_toFin_eq h, fun h => h ▸ rfl⟩

@[simp] theorem State.getV_setV (s : State) (x y : RegIdx) (b : Byte) :
    (s.setV x b).getV y = if y = x then b else s.getV y := by
  simp only [State.getV, State.setV, Vector.get_eq_getElem, Vector.getElem_set]
  by_cases h : y = x
  · subst h; simp
  · have : x.toNat ≠ y.toNat := fun e => h (BitVec.eq_of_toNat_eq e).symm
    simp [h, this]

@[simp] theorem State.keyDown_setKey (s : State) (k j : KeyIdx) (b : Bool) :
    (s.setKey k b).keyDown j = if j = k then b else s.keyDown j := by
  simp only [State.keyDown, State.setKey, Vector.get_eq_getElem, Vector.getElem_set]
  by_cases h : j = k
  · subst h; simp
  · have : k.toNat ≠ j.toNat := fun e => h (BitVec.eq_of_toNat_eq e).symm
    simp [h, this]

theorem State.stackAt_push (s : State) (a : Half) (j : Nat) (h : s.sp.toNat < 16) :
    (s.push a).stackAt j = if j = s.sp.toNat then a else s.stackAt j := by
  simp only [State.stackAt, State.push, Vector.getElem?_setIfInBounds]
  by_cases e : j = s.sp.toNat
  · simp [e, h]
  · simp [e, Ne.symm e]

/-- A register file is what its sixteen reads say. -/
theorem State.V_ext {s t : State} (h : ∀ r, s.getV r = t.getV r) : s.V = t.V := by
  apply Vector.ext
  intro k hk
  have := h (BitVec.ofNat 4 k)
  simpa [State.getV, Vector.get_eq_getElem, Nat.mod_eq_of_lt hk] using this

/-- Writing a register changes no field but `V`. -/
theorem State.setV_eq (s : State) (x : RegIdx) (b : Byte) : s.setV x b = { s with V := (s.setV x b).V } := rfl

/-- The result and the flag, read back: the flag wins at index 15 (R132). -/
theorem State.getV_setResultAndFlag (s : State) (x r : RegIdx) (result flag : Byte) :
    (s.setResultAndFlag x result flag).getV r =
      if r = regF then flag else if r = x then result else s.getV r := by
  simp [State.setResultAndFlag]

theorem State.setResultAndFlag_eq (s : State) (x : RegIdx) (result flag : Byte) :
    s.setResultAndFlag x result flag = { s with V := (s.setResultAndFlag x result flag).V } := rfl

/-- Loading registers from index k on changes no field but `V` (R145). -/
theorem State.setRegsFrom_eq (s : State) (k : Nat) (bs : List Byte) :
    s.setRegsFrom k bs = { s with V := (s.setRegsFrom k bs).V } := by
  induction bs generalizing s k with
  | nil => rfl
  | cons b bs ih => exact ih (s.setV (BitVec.ofNat 4 k) b) (k + 1)

/-- Loading registers from index k on, read back (R145). -/
theorem State.getV_setRegsFrom (s : State) (k : Nat) (bs : List Byte) (h : k + bs.length ≤ 16) (r : RegIdx) :
    (s.setRegsFrom k bs).getV r =
      if k ≤ r.toNat ∧ r.toNat < k + bs.length then bs[r.toNat - k]?.getD 0 else s.getV r := by
  induction bs generalizing s k with
  | nil => simp [State.setRegsFrom]
  | cons b bs ih =>
    simp only [List.length_cons] at h
    rw [State.setRegsFrom, ih (s.setV (BitVec.ofNat 4 k) b) (k + 1) (by omega)]
    have hk : (BitVec.ofNat 4 k).toNat = k := by simp; omega
    have hr : r = BitVec.ofNat 4 k ↔ r.toNat = k := by
      rw [← BitVec.toNat_inj, hk]
    by_cases e : r.toNat = k
    · simp [hr, e]
    · by_cases l : k + 1 ≤ r.toNat ∧ r.toNat < k + 1 + bs.length
      · have : r.toNat - k = (r.toNat - (k + 1)) + 1 := by omega
        rw [if_pos l, if_pos (by simp only [List.length_cons]; omega), this]
        simp
      · rw [if_neg l, if_neg (by simp only [List.length_cons]; omega)]
        simp [hr, e]

@[simp] theorem FrameBuffer.pixel_clear (x : Fin 64) (y : Fin 32) :
    FrameBuffer.pixel FrameBuffer.clear x y = false := by
  simp [FrameBuffer.pixel, FrameBuffer.clear, Vector.get_eq_getElem]

/-- Inverting one pixel inverts that pixel and no other (R166). -/
theorem FrameBuffer.pixel_flip (fb : FrameBuffer) (x x' : Fin 64) (y y' : Fin 32) :
    FrameBuffer.pixel (FrameBuffer.flip fb x y) x' y' =
      if x' = x ∧ y' = y then !FrameBuffer.pixel fb x y else FrameBuffer.pixel fb x' y' := by
  simp only [FrameBuffer.flip, FrameBuffer.pixel, Vector.get_eq_getElem, Vector.getElem_set]
  by_cases hy : y' = y
  · subst hy
    by_cases hx : x' = x
    · subst hx; simp
    · have : x.val ≠ x'.val := fun e => hx (Fin.ext e).symm
      simp [hx, this]
  · have : y.val ≠ y'.val := fun e => hy (Fin.ext e).symm
    simp [hy, this]

/-- Two frame buffers with the same pixels are the same. -/
theorem FrameBuffer.ext_pixel {f g : FrameBuffer} (h : ∀ x y, FrameBuffer.pixel f x y = FrameBuffer.pixel g x y) :
    f = g := by
  apply Vector.ext
  intro j hj
  apply Vector.ext
  intro k hk
  exact h ⟨k, hk⟩ ⟨j, hj⟩

end Sys2Proof.Machine
end

