-- ==== Sys2Proof/Laws/Memory.lean ====
section
/-! SUPPORT. The laws of memory (20_memory.md R56, R59): a read after a write gives the byte written, a write leaves every
other address alone, and every memory operation keeps the canonical form and the font parameters. -/

namespace Sys2Proof.Machine

/-! ### The list of cells -/

theorem cellsWf_cons {f : Font} {lo c : Nat} {v : Byte} {rest : List Host.Cell} :
    cellsWf f lo ((c, v) :: rest) = true ↔
      lo ≤ c ∧ c < 4096 ∧ v ≠ f.resetByte c ∧ cellsWf f (c + 1) rest = true := by
  simp [cellsWf, and_assoc]

theorem cellsWf_weaken {f : Font} {lo lo' : Nat} {cells : List Host.Cell} (h : cellsWf f lo cells = true)
    (l : lo' ≤ lo) : cellsWf f lo' cells = true := by
  cases cells with
  | nil => rfl
  | cons cv rest =>
    obtain ⟨c, v⟩ := cv
    rw [cellsWf_cons] at h ⊢
    exact ⟨by omega, h.2⟩

/-- Below the first address of a canonical list nothing is listed. -/
theorem lookupCell_below {f : Font} {lo a : Nat} {cells : List Host.Cell} (h : cellsWf f lo cells = true)
    (l : a < lo) : lookupCell a cells = none := by
  induction cells generalizing lo with
  | nil => rfl
  | cons cv rest ih =>
    obtain ⟨c, v⟩ := cv
    rw [cellsWf_cons] at h
    rw [lookupCell, if_neg (by omega)]
    exact ih h.2.2.2 (by omega)

/-- Every address listed in a canonical list is below 4096. -/
theorem lookupCell_above {f : Font} {lo a : Nat} {cells : List Host.Cell} (h : cellsWf f lo cells = true)
    (l : 4096 ≤ a) : lookupCell a cells = none := by
  induction cells generalizing lo with
  | nil => rfl
  | cons cv rest ih =>
    obtain ⟨c, v⟩ := cv
    rw [cellsWf_cons] at h
    rw [lookupCell, if_neg (by omega)]
    exact ih h.2.2.2

theorem lookupCell_putCell_same {f : Font} {lo : Nat} (bg : Byte) (a : Nat) (b : Byte) {cells : List Host.Cell}
    (h : cellsWf f lo cells = true) : (lookupCell a (putCell bg a b cells)).getD bg = b := by
  induction cells generalizing lo with
  | nil => by_cases e : b = bg <;> simp [putCell, lookupCell, e]
  | cons cv rest ih =>
    obtain ⟨c, v⟩ := cv
    rw [cellsWf_cons] at h
    have below : ∀ x, x ≤ c → lookupCell x rest = none := fun x hx => lookupCell_below h.2.2.2 (by omega)
    rw [putCell]
    by_cases lt : a < c
    · have : c ≠ a := by omega
      by_cases e : b = bg <;> simp [lt, e, lookupCell, below a (by omega), this]
    · by_cases eq : a = c
      · by_cases e : b = bg <;> simp [eq, e, lookupCell, below c (by omega)]
      · have : c ≠ a := by omega
        simp only [lt, eq, if_false, lookupCell, this]
        exact ih h.2.2.2

theorem lookupCell_putCell_other {f : Font} {lo : Nat} (bg : Byte) {a a' : Nat} (b : Byte) {cells : List Host.Cell}
    (h : cellsWf f lo cells = true) (ne : a' ≠ a) : lookupCell a' (putCell bg a b cells) = lookupCell a' cells := by
  induction cells generalizing lo with
  | nil => by_cases e : b = bg <;> simp [putCell, lookupCell, e, ne.symm]
  | cons cv rest ih =>
    obtain ⟨c, v⟩ := cv
    rw [cellsWf_cons] at h
    rw [putCell]
    by_cases lt : a < c
    · by_cases e : b = bg <;> simp [lt, e, lookupCell, ne.symm]
    · by_cases eq : a = c
      · subst eq
        have below : ∀ x, x ≤ a → lookupCell x rest = none := fun x hx => lookupCell_below h.2.2.2 (by omega)
        by_cases e : b = bg <;> simp [e, lookupCell, ne.symm]
      · simp only [lt, eq, if_false, lookupCell]
        rw [ih h.2.2.2]

theorem putCell_keeps_cellsWf {f : Font} {lo : Nat} {a : Nat} (b : Byte) {cells : List Host.Cell}
    (h : cellsWf f lo cells = true) (l : lo ≤ a) (u : a < 4096) :
    cellsWf f lo (putCell (f.resetByte a) a b cells) = true := by
  induction cells generalizing lo with
  | nil =>
    by_cases e : b = f.resetByte a
    · simp [putCell, e, cellsWf]
    · rw [putCell, if_neg e, cellsWf_cons]
      exact ⟨l, u, e, rfl⟩
  | cons cv rest ih =>
    obtain ⟨c, v⟩ := cv
    have h' := h
    rw [cellsWf_cons] at h
    rw [putCell]
    by_cases lt : a < c
    · rw [if_pos lt]
      by_cases e : b = f.resetByte a
      · rw [if_pos e]; exact h'
      · rw [if_neg e, cellsWf_cons, cellsWf_cons]
        exact ⟨l, u, e, by omega, h.2⟩
    · rw [if_neg lt]
      by_cases eq : a = c
      · subst eq
        rw [if_pos rfl]
        by_cases e : b = f.resetByte a
        · rw [if_pos e]; exact cellsWf_weaken h.2.2.2 (by omega)
        · rw [if_neg e, cellsWf_cons]
          exact ⟨l, u, e, h.2.2.2⟩
      · rw [if_neg eq, cellsWf_cons]
        exact ⟨h.1, h.2.1, h.2.2.1, ih h.2.2.2 (by omega)⟩

/-! ### Reading and writing a byte -/

@[simp] theorem Memory.write_font (m : Memory) (a : Nat) (b : Byte) : (m.write a b).font = m.font := by
  unfold Memory.write
  split <;> rfl

/-- A write keeps the canonical form of memory. -/
theorem Memory.write_wf {m : Memory} (h : m.wf = true) (a : Nat) (b : Byte) : (m.write a b).wf = true := by
  unfold Memory.write
  split
  · rename_i u
    exact putCell_keeps_cellsWf b h (Nat.zero_le a) u
  · exact h

/-- A read after a write to the same address gives the byte written (R59). -/
theorem Memory.read_write_same {m : Memory} (h : m.wf = true) {a : Nat} (u : a < 4096) (b : Byte) :
    (m.write a b).read a = b := by
  simp only [Memory.write, u, if_true, Memory.read]
  exact lookupCell_putCell_same _ a b h

/-- A write leaves every other address alone (R59). -/
theorem Memory.read_write_other {m : Memory} (h : m.wf = true) {a a' : Nat} (ne : a' ≠ a) (b : Byte) :
    (m.write a b).read a' = m.read a' := by
  unfold Memory.write
  split
  · simp only [Memory.read]
    rw [lookupCell_putCell_other _ b h ne]
  · rfl

/-! ### Writing a block of bytes -/

@[simp] theorem Memory.writeBytes_font (m : Memory) (a : Nat) (bs : List Byte) :
    (m.writeBytes a bs).font = m.font := by
  induction bs generalizing m a with
  | nil => rfl
  | cons b bs ih => simp [Memory.writeBytes, ih]

/-- A block write keeps the canonical form of memory. -/
theorem Memory.writeBytes_wf {m : Memory} (h : m.wf = true) (a : Nat) (bs : List Byte) :
    (m.writeBytes a bs).wf = true := by
  induction bs generalizing m a with
  | nil => exact h
  | cons b bs ih => exact ih (Memory.write_wf h a b) (a + 1)

/-- What a block write does to every byte of memory (R54, R56): inside the block the bytes written, in order, outside
nothing. -/
theorem Memory.read_writeBytes {m : Memory} (h : m.wf = true) (a : Nat) (bs : List Byte)
    (u : a + bs.length ≤ 4096) (a' : Nat) :
    (m.writeBytes a bs).read a' =
      if a ≤ a' ∧ a' < a + bs.length then bs[a' - a]?.getD 0 else m.read a' := by
  induction bs generalizing m a with
  | nil => rw [if_neg (by simp)]; rfl
  | cons b bs ih =>
    simp only [List.length_cons] at u
    rw [Memory.writeBytes, ih (Memory.write_wf h a b) (a + 1) (by omega)]
    simp only [List.length_cons]
    by_cases e : a' = a
    · subst e
      rw [if_neg (by omega), if_pos (by omega), Memory.read_write_same h (by omega)]
      simp
    · by_cases l : a + 1 ≤ a' ∧ a' < a + 1 + bs.length
      · have : a' - a = (a' - (a + 1)) + 1 := by omega
        rw [if_pos l, if_pos (by omega), this]
        simp
      · rw [if_neg l, if_neg (by omega), Memory.read_write_other h e]

/-- Canonical memories with the same font and the same bytes are equal data. -/
theorem cells_ext {f : Font} {lo : Nat} {xs ys : List Host.Cell} (hx : cellsWf f lo xs = true)
    (hy : cellsWf f lo ys = true)
    (h : ∀ a, (lookupCell a xs).getD (f.resetByte a) = (lookupCell a ys).getD (f.resetByte a)) : xs = ys := by
  induction xs generalizing lo ys with
  | nil =>
    cases ys with
    | nil => rfl
    | cons cv rest =>
      obtain ⟨c, v⟩ := cv
      rw [cellsWf_cons] at hy
      have := h c
      simp [lookupCell] at this
      exact absurd this.symm hy.2.2.1
  | cons cv rest ih =>
    obtain ⟨c, v⟩ := cv
    have hx' := hx
    rw [cellsWf_cons] at hx
    cases ys with
    | nil =>
      have := h c
      simp [lookupCell] at this
      exact absurd this hx.2.2.1
    | cons dw rest' =>
      obtain ⟨d, w⟩ := dw
      have hy' := hy
      rw [cellsWf_cons] at hy
      have cd : c = d := by
        rcases Nat.lt_trichotomy c d with l | e | l
        · have := h c
          rw [lookupCell, if_pos rfl, lookupCell, if_neg (by omega),
            lookupCell_below hy.2.2.2 (by omega)] at this
          exact absurd this hx.2.2.1
        · exact e
        · have := h d
          rw [lookupCell, if_neg (by omega), lookupCell_below hx.2.2.2 (by omega), lookupCell, if_pos rfl] at this
          exact absurd this.symm hy.2.2.1
      subst cd
      have vw : v = w := by
        have := h c
        simpa [lookupCell] using this
      subst vw
      congr 1
      refine ih hx.2.2.2 hy.2.2.2 fun a => ?_
      by_cases e : a = c
      · subst e
        rw [lookupCell_below hx.2.2.2 (by omega), lookupCell_below hy.2.2.2 (by omega)]
      · have := h a
        rwa [lookupCell, if_neg (Ne.symm e), lookupCell, if_neg (Ne.symm e)] at this

/-- Two canonical memories with the same font parameters that read the same at every address are equal. -/
theorem Memory.ext_read {m m' : Memory} (h : m.wf = true) (h' : m'.wf = true) (ef : m.font = m'.font)
    (e : ∀ a, m.read a = m'.read a) : m = m' := by
  obtain ⟨f, cs⟩ := m
  obtain ⟨f', cs'⟩ := m'
  obtain rfl : f = f' := ef
  congr 1
  exact cells_ext h h' e

end Sys2Proof.Machine
end

