-- ==== Sys2Proof/Laws/Raster.lean ====
section
/-! SUPPORT. The raster engine in closed form (44_display.md R166 to R168): each pixel of the frame buffer is XORed with the
sprite bit over it, and a hit is a sprite bit of 1 over a pixel that was on before the draw. -/

namespace Sys2Proof.Machine

/-- The column offset of a pixel from the sprite's corner. -/
def colOffset (x0 : Nat) (x : Fin 64) : Nat := (x.val + 64 - x0) % 64

/-- The row offset of a pixel from the sprite's corner. -/
def rowOffset (y0 : Nat) (y : Fin 32) : Nat := (y.val + 32 - y0) % 32

theorem colOffset_eq_iff {x0 c : Nat} (h0 : x0 < 64) (hc : c < 64) (x : Fin 64) :
    x = Fin.ofNat 64 (x0 + c) ↔ colOffset x0 x = c := by
  have := x.isLt
  rw [Fin.ext_iff]
  simp only [Fin.ofNat, colOffset]
  omega

theorem rowOffset_eq_iff {y0 r : Nat} (h0 : y0 < 32) (hr : r < 32) (y : Fin 32) :
    y = Fin.ofNat 32 (y0 + r) ↔ rowOffset y0 y = r := by
  have := y.isLt
  rw [Fin.ext_iff]
  simp only [Fin.ofNat, rowOffset]
  omega

/-- The bit of sprite row `r` over pixel (x, y). -/
def rowBit (x0 y0 r n : Nat) (b : Byte) (x : Fin 64) (y : Fin 32) : Bool :=
  decide (colOffset x0 x < n) && decide (rowOffset y0 y = r) && b.getLsbD (7 - colOffset x0 x)

/-- What the first `n` columns of a sprite row do to the frame buffer. -/
theorem rasterColumns_spec {x0 y0 r n : Nat} (hx : x0 < 64) (hy : y0 < 32) (hr : r < 32) (hn : n ≤ 8) (b : Byte)
    (acc : Raster) :
    (∀ x y, FrameBuffer.pixel ((List.range n).foldl (rasterBit x0 y0 r b) acc).fb x y =
        (FrameBuffer.pixel acc.fb x y ^^ rowBit x0 y0 r n b x y)) ∧
      (((List.range n).foldl (rasterBit x0 y0 r b) acc).hit = true ↔
        acc.hit = true ∨ ∃ x y, FrameBuffer.pixel acc.fb x y = true ∧ rowBit x0 y0 r n b x y = true) := by
  induction n with
  | zero => simp [rowBit]
  | succ n ih =>
    obtain ⟨ihp, ihh⟩ := ih (by omega)
    rw [List.range_succ, List.foldl_append, List.foldl_cons, List.foldl_nil]
    set mid := (List.range n).foldl (rasterBit x0 y0 r b) acc with hmid
    have bitStep : ∀ x y, rowBit x0 y0 r (n + 1) b x y =
        (rowBit x0 y0 r n b x y ||
          (decide (x = Fin.ofNat 64 (x0 + n)) && decide (y = Fin.ofNat 32 (y0 + r)) && b.getLsbD (7 - n))) := by
      intro x y
      simp only [rowBit, colOffset_eq_iff hx (show n < 64 by omega), rowOffset_eq_iff hy hr]
      by_cases e : colOffset x0 x = n
      · simp [e]
      · by_cases l : colOffset x0 x < n
        · simp [l, Nat.lt_succ_of_lt l, e]
        · have : ¬ colOffset x0 x < n + 1 := by omega
          simp [l, this, e]
    have fresh : rowBit x0 y0 r n b (Fin.ofNat 64 (x0 + n)) (Fin.ofNat 32 (y0 + r)) = false := by
      have : colOffset x0 (Fin.ofNat 64 (x0 + n)) = n := (colOffset_eq_iff hx (by omega) _).1 rfl
      simp only [rowBit, this, Nat.lt_irrefl, decide_false, Bool.false_and]
    unfold rasterBit
    by_cases hb : b.getLsbD (7 - n) = true
    · rw [if_pos hb]
      refine ⟨fun x y => ?_, ?_⟩
      · simp only [FrameBuffer.pixel_flip, bitStep, hb, Bool.and_true]
        by_cases e : x = Fin.ofNat 64 (x0 + n) ∧ y = Fin.ofNat 32 (y0 + r)
        · obtain ⟨rfl, rfl⟩ := e
          simp only [ihp, fresh, and_self, if_true, decide_true, Bool.and_self, Bool.or_true, Bool.xor_false,
            Bool.xor_true]
        · rw [if_neg e, ihp]
          by_cases ex : x = Fin.ofNat 64 (x0 + n)
          · have ey : ¬ y = Fin.ofNat 32 (y0 + r) := fun ey => e ⟨ex, ey⟩
            simp only [ey, decide_false, Bool.and_false, Bool.or_false]
          · simp only [ex, decide_false, Bool.false_and, Bool.or_false]
      · simp only [Bool.or_eq_true, ihh, ihp, bitStep, hb, Bool.and_true, fresh, Bool.xor_false, Bool.and_eq_true,
          decide_eq_true_eq]
        constructor
        · rintro ((h | ⟨x, y, h1, h2⟩) | h)
          · exact .inl h
          · exact .inr ⟨x, y, h1, .inl h2⟩
          · exact .inr ⟨_, _, h, .inr ⟨rfl, rfl⟩⟩
        · rintro (h | ⟨x, y, h1, h2 | ⟨rfl, rfl⟩⟩)
          · exact .inl (.inl h)
          · exact .inl (.inr ⟨x, y, h1, h2⟩)
          · exact .inr h1
    · rw [if_neg hb]
      have hb' : b.getLsbD (7 - n) = false := by simpa using hb
      refine ⟨fun x y => ?_, ?_⟩
      · rw [ihp, bitStep, hb']; simp
      · rw [ihh]; simp only [bitStep, hb', Bool.and_false, Bool.or_false]

/-- The bit of a list of sprite rows, the first at row offset `r`, over pixel (x, y). -/
def rowsBit (x0 y0 r : Nat) (bs : List Byte) (x : Fin 64) (y : Fin 32) : Bool :=
  decide (colOffset x0 x < 8) && decide (r ≤ rowOffset y0 y) &&
    ((bs[rowOffset y0 y - r]?).getD 0).getLsbD (7 - colOffset x0 x)

theorem rowsBit_cons {x0 y0 r : Nat} (b : Byte) (bs : List Byte) (x : Fin 64) (y : Fin 32) :
    rowsBit x0 y0 r (b :: bs) x y = (rowBit x0 y0 r 8 b x y || rowsBit x0 y0 (r + 1) bs x y) := by
  simp only [rowsBit, rowBit]
  rcases Nat.lt_trichotomy (rowOffset y0 y) r with l | e | l
  · have h1 : ¬ r ≤ rowOffset y0 y := by omega
    have h2 : ¬ rowOffset y0 y = r := by omega
    have h3 : ¬ r + 1 ≤ rowOffset y0 y := by omega
    simp only [h1, h2, h3, decide_false, Bool.and_false, Bool.false_and, Bool.or_false]
  · have h3 : ¬ r + 1 ≤ r := by omega
    simp only [e, h3, le_refl, decide_true, decide_false, Nat.sub_self, Bool.and_true, Bool.and_false, Bool.false_and,
      Bool.or_false, List.getElem?_cons_zero, Option.getD_some]
  · have h1 : r ≤ rowOffset y0 y := by omega
    have h2 : ¬ rowOffset y0 y = r := by omega
    have h3 : r + 1 ≤ rowOffset y0 y := by omega
    have h4 : rowOffset y0 y - r = (rowOffset y0 y - (r + 1)) + 1 := by omega
    simp only [h1, h2, h3, decide_true, decide_false, Bool.and_false, Bool.false_and, Bool.false_or, Bool.and_true, h4,
      List.getElem?_cons_succ]

theorem rowBit_rowsBit_disjoint {x0 y0 r : Nat} (b : Byte) (bs : List Byte) (x : Fin 64) (y : Fin 32)
    (h : rowBit x0 y0 r 8 b x y = true) : rowsBit x0 y0 (r + 1) bs x y = false := by
  simp only [rowBit, Bool.and_eq_true, decide_eq_true_eq] at h
  have : ¬ r + 1 ≤ rowOffset y0 y := by omega
  simp [rowsBit, this]

/-- The raster engine, said once: every pixel is XORed with the sprite bit over it, and there is a hit exactly when a sprite
bit of 1 lies over a pixel that was on before (R166, R168). -/
theorem rasterRows_spec {x0 y0 : Nat} (hx : x0 < 64) (hy : y0 < 32) (bs : List Byte) (r : Nat) (hr : r + bs.length ≤ 32)
    (acc : Raster) :
    (∀ x y, FrameBuffer.pixel (rasterRows x0 y0 r bs acc).fb x y =
        (FrameBuffer.pixel acc.fb x y ^^ rowsBit x0 y0 r bs x y)) ∧
      ((rasterRows x0 y0 r bs acc).hit = true ↔
        acc.hit = true ∨ ∃ x y, FrameBuffer.pixel acc.fb x y = true ∧ rowsBit x0 y0 r bs x y = true) := by
  induction bs generalizing r acc with
  | nil => simp [rasterRows, rowsBit]
  | cons b bs ih =>
    simp only [List.length_cons] at hr
    obtain ⟨rowp, rowh⟩ := rasterColumns_spec hx hy (show r < 32 by omega) (Nat.le_refl 8) b acc
    obtain ⟨ihp, ihh⟩ := ih (r + 1) (by omega) (rasterRow x0 y0 r b acc)
    rw [rasterRows]
    simp only [rasterRow] at ihp ihh ⊢
    have apart := fun x y => rowBit_rowsBit_disjoint (x0 := x0) (y0 := y0) (r := r) b bs x y
    refine ⟨fun x y => ?_, ?_⟩
    · rw [ihp, rowp, rowsBit_cons]
      cases e : rowBit x0 y0 r 8 b x y
      · simp
      · simp [apart x y e]
    · rw [ihh, rowh]
      constructor
      · rintro ((h | ⟨x, y, h1, h2⟩) | ⟨x, y, h1, h2⟩)
        · exact .inl h
        · exact .inr ⟨x, y, h1, by rw [rowsBit_cons, h2]; rfl⟩
        · rw [rowp] at h1
          have : rowBit x0 y0 r 8 b x y = false := by
            by_contra ne
            rw [apart x y (by simpa using ne)] at h2
            exact absurd h2 (by simp)
          rw [this, Bool.xor_false] at h1
          exact .inr ⟨x, y, h1, by rw [rowsBit_cons, h2, Bool.or_true]⟩
      · rintro (h | ⟨x, y, h1, h2⟩)
        · exact .inl (.inl h)
        · rw [rowsBit_cons, Bool.or_eq_true] at h2
          rcases h2 with h2 | h2
          · exact .inl (.inr ⟨x, y, h1, h2⟩)
          · have : rowBit x0 y0 r 8 b x y = false := by
              by_contra ne
              rw [apart x y (by simpa using ne)] at h2
              exact absurd h2 (by simp)
            exact .inr ⟨x, y, by rw [rowp, h1, this]; rfl, h2⟩

/-- The rows of a sprite read from memory give the sprite bit of Safety.lean. -/
theorem rowsBit_readBytes (m : Memory) (base n x0 y0 : Nat) (x : Fin 64) (y : Fin 32) :
    rowsBit x0 y0 0 (m.readBytes base n) x y = spriteBit m base n x0 y0 x y := by
  simp only [rowsBit, spriteBit, colOffset, rowOffset, Nat.zero_le, decide_true, Bool.and_true, Nat.sub_zero,
    Memory.readBytes, List.getElem?_map]
  by_cases h : (y.val + 32 - y0) % 32 < n
  · simp [h]
    rfl
  · have : (List.range n)[(y.val + 32 - y0) % 32]? = none := by
      rw [List.getElem?_eq_none]; simp; omega
    simp [h]

end Sys2Proof.Machine
end

