-- ==== Sys2Proof/Laws/Machine.lean ====
section
/-! SUPPORT. One lemma per shared operation of the machine that says everything it can do: the range check, the fetch, the
draw, the core step and the step. -/

namespace Sys2Proof.Machine

/-! ### The range check (20_memory.md R52) -/

theorem rangeError_none_iff (base count : Nat) : rangeError base count = none ↔ count = 0 ∨ base + count ≤ 4096 := by
  unfold rangeError
  split <;> simp <;> omega

theorem rangeError_some_iff (base count a : Nat) :
    rangeError base count = some a ↔ 0 < count ∧ 4096 < base + count ∧ a = max base 4096 := by
  unfold rangeError
  split <;> simp <;> omega

/-- A checked access ends in `done`, or in the fault with the lowest address out of range. -/
theorem State.ifInRange_cases (s : State) (base count : Nat) (done : State) :
    ((count = 0 ∨ base + count ≤ 4096) ∧ s.ifInRange base count done = done) ∨
      (0 < count ∧ 4096 < base + count ∧
        s.ifInRange base count done = s.raise .addressOutOfRange (max base 4096)) := by
  unfold State.ifInRange
  cases h : rangeError base count with
  | none => exact .inl ⟨(rangeError_none_iff base count).1 h, rfl⟩
  | some a =>
    obtain ⟨h1, h2, rfl⟩ := (rangeError_some_iff base count a).1 h
    exact .inr ⟨h1, h2, rfl⟩

theorem State.ifInRange_ok {s : State} {base count : Nat} (h : count = 0 ∨ base + count ≤ 4096) (done : State) :
    s.ifInRange base count done = done := by
  rw [State.ifInRange, (rangeError_none_iff base count).2 h]

theorem State.ifInRange_error {s : State} {base count : Nat} (h0 : 0 < count) (h : 4096 < base + count) (done : State) :
    s.ifInRange base count done = s.raise .addressOutOfRange (max base 4096) := by
  rw [State.ifInRange, (rangeError_some_iff base count _).2 ⟨h0, h, rfl⟩]

/-! ### Call and return (40_control_flow.md R101, R103) -/

theorem execCall_room {s : State} (h : s.sp.toNat < 16) (nnn : Addr12) :
    execCall nnn s = .next ((s.push (s.pc + 2)).jump (zextAddr nnn)) :=
  if_neg (by simp only [State.stackFull, Config.stackDepth]; omega)

theorem execCall_full {s : State} (h : 16 ≤ s.sp.toNat) (nnn : Addr12) :
    execCall nnn s = .next (s.raise .stackOverflow 0) := if_pos h

theorem execRet_empty {s : State} (h : s.sp.toNat = 0) : execRet s = .next (s.raise .stackUnderflow 0) :=
  if_pos (BitVec.eq_of_toNat_eq h)

theorem execRet_top {s : State} (h : 0 < s.sp.toNat) (h' : s.sp.toNat ≤ 16) :
    execRet s = .next (s.dropTop.jump (s.stackAt (s.sp.toNat - 1))) := by
  have : ¬ s.sp = 0 := fun e => by rw [e] at h; exact absurd h (by decide)
  rw [execRet, if_neg this, if_neg (by simp only [Config.stackDepth]; omega)]

/-! ### Blocks of registers and memory -/

@[simp] theorem State.regsTo_length (s : State) (x : RegIdx) : (s.regsTo x).length = x.toNat + 1 := by
  simp [State.regsTo]

@[simp] theorem Memory.readBytes_length (m : Memory) (a n : Nat) : (m.readBytes a n).length = n := by
  simp [Memory.readBytes]

theorem State.regsTo_getD (s : State) (x : RegIdx) {k : Nat} (h : k ≤ x.toNat) :
    (s.regsTo x)[k]?.getD 0 = s.getV (BitVec.ofNat 4 k) := by
  simp [State.regsTo, Nat.lt_succ_of_le h]

theorem Memory.readBytes_getD (m : Memory) (a : Nat) {n k : Nat} (h : k < n) :
    (m.readBytes a n)[k]?.getD 0 = m.read (a + k) := by
  simp [Memory.readBytes, h]

@[simp] theorem decimalDigits_length (a : Byte) : (decimalDigits a).length = 3 := rfl

/-! ### The random source (43_random.md R160) -/

theorem State.randomByte_cons {s : State} {r : Byte} {rest : List Byte} (h : s.rng = r :: rest) :
    s.randomByte = r := by
  rw [State.randomByte, h]

/-! ### The sprite (44_display.md R166) -/

/-- The raster engine on a state, in closed form. -/
theorem State.rasterSprite_spec (s : State) (vx vy : RegIdx) (n : Nibble) :
    (∀ x y, FrameBuffer.pixel (s.rasterSprite vx vy n).fb x y =
        (FrameBuffer.pixel s.fb x y ^^ s.drwBit vx vy n x y)) ∧
      ((s.rasterSprite vx vy n).hit = true ↔ s.drwHits vx vy n) := by
  have len : 0 + (s.mem.readBytes s.base n.toNat).length ≤ 32 := by
    have := n.isLt
    simp only [Memory.readBytes_length]
    omega
  obtain ⟨hp, hh⟩ := rasterRows_spec (Nat.mod_lt (s.getV vx).toNat (show 64 > 0 by decide))
    (Nat.mod_lt (s.getV vy).toNat (show 32 > 0 by decide)) _ 0 len ⟨s.fb, false⟩
  simp only [rowsBit_readBytes] at hp hh
  exact ⟨hp, hh.trans (by simp [State.drwHits, State.drwBit])⟩

/-! ### Fetch, core step, step (30_encoding.md R71 to R73) -/

theorem fetchable_iff (pc : Half) :
    fetchable pc = true ↔ pc.toNat % 2 = 0 ∧ 0x200 ≤ pc.toNat ∧ pc.toNat < 4096 := by
  simp [fetchable, and_assoc]

/-- Decoding the fetched bytes is decoding the fetched word. -/
theorem State.decodeBytes_fetchBytes (s : State) :
    decodeBytes s.fetchBytes =
      match decode s.fetchWord with
      | .ok i => .ok (i, [])
      | .error e => .error e := rfl

/-- Everything a core step can do. -/
theorem coreStep_cases (s : State) :
    (s.coreEnabled = false ∧ coreStep s = .next s) ∨
      (s.coreEnabled = true ∧ fetchable s.pc = false ∧
        coreStep s = .next (s.raise .addressOutOfRange s.pc.toNat)) ∨
      (s.coreEnabled = true ∧ fetchable s.pc = true ∧ (∃ e, decode s.fetchWord = .error e) ∧
        coreStep s = .next (s.raise .unknownOpcode s.fetchWord.toNat)) ∨
      (s.coreEnabled = true ∧ fetchable s.pc = true ∧ ∃ i, decode s.fetchWord = .ok i ∧ coreStep s = exec i s) := by
  unfold coreStep
  cases he : s.coreEnabled
  · exact .inl ⟨rfl, rfl⟩
  · cases hf : fetchable s.pc
    · exact .inr (.inl ⟨rfl, rfl, rfl⟩)
    · rw [State.decodeBytes_fetchBytes]
      cases hd : decode s.fetchWord with
      | error e => exact .inr (.inr (.inl ⟨rfl, rfl, ⟨e, rfl⟩, rfl⟩))
      | ok i => exact .inr (.inr (.inr ⟨rfl, rfl, i, rfl, rfl⟩))

/-- A step performs the next event on the state with that event taken off the schedule. -/
theorem step_eq_runEvent (s : State) : step s = runEvent s.nextUp s.popEvent := by
  unfold step nextEvent State.nextUp State.popEvent
  cases h : s.schedule with
  | nil =>
    have : { s with schedule := ([] : List Event) } = s := by rw [← h]
    exact (congrArg coreStep this).symm
  | cons e es => rfl

/-- At a jump to itself a core step leaves the whole state as it is (40_control_flow.md R110). -/
theorem coreStep_finished {s : State} (h : s.finished) : coreStep s = .next s := by
  obtain ⟨hf, hd⟩ := h
  have hpc : zextAddr (s.pc.setWidth 12) = s.pc := by
    have := ((fetchable_iff s.pc).1 hf).2.2
    apply BitVec.eq_of_toNat_eq
    simp [zextAddr]
    omega
  rcases coreStep_cases s with ⟨-, e⟩ | ⟨-, hf', -⟩ | ⟨-, -, ⟨_, hd'⟩, -⟩ | ⟨-, -, i, hd', e⟩
  · exact e
  · rw [hf] at hf'; cases hf'
  · rw [hd] at hd'; cases hd'
  · rw [hd] at hd'; cases hd'
    rw [e]
    exact congrArg Host.Outcome.next (congrArg (fun p => { s with pc := p }) hpc)

/-- A finished program stays finished at every turn of the core (R110). -/
theorem step_finished {s : State} (h : s.finished) (hc : s.nextUp = .core) : step s = .next s.popEvent := by
  rw [step_eq_runEvent, hc]
  exact coreStep_finished (s := s.popEvent) h

/-- One step of a run. -/
theorem run_succ_of_next {s t : State} (h : step s = .next t) (n : Nat) :
    Sys2Proof.core.run (n + 1) s = Sys2Proof.core.run n t := by
  have : Sys2Proof.core.step s = .next t := h
  simp only [Host.Core.run, this]

/-! ### Events whose agent may raise them (10_state.md R36, R39, R40) -/

theorem tickEvent_enabled {s : State} (h : s.started = true) : tickEvent s = .next s.ticked := if_pos h

theorem keyPressEvent_enabled {s : State} {k : KeyIdx} (h : s.started = true) (up : s.keyDown k = false) :
    keyPressEvent k s = .next (s.keyPressed k) := by
  simp [keyPressEvent, h, up]

theorem keyReleaseEvent_enabled {s : State} {k : KeyIdx} (h : s.started = true) (down : s.keyDown k = true) :
    keyReleaseEvent k s = .next (s.setKey k false) := by
  simp [keyReleaseEvent, h, down]

theorem loadEvent_enabled {s : State} (h : s.started = false) (r : s.run ≠ .halted) (image : List Byte) :
    loadEvent image s = .next (s.loaded image) := by
  simp [loadEvent, h, State.isHalted, r]

theorem startEvent_enabled {s : State} (h : s.started = false) : startEvent s = .next s.startedByHost := by
  simp [startEvent, h]

/-- A key press on a waiting core (R36, R182). -/
theorem State.keyPressed_waiting {s : State} {x : RegIdx} (h : s.run = .awaitKey x) (k : KeyIdx) :
    s.keyPressed k = ((s.setKey k true).setV x (zextKey k)).setRun .running := by
  simp only [State.keyPressed, h]

/-- A key press on a core that does not wait changes the key level only (R36, R210). -/
theorem State.keyPressed_notWaiting {s : State} (h : ∀ x, s.run ≠ .awaitKey x) (k : KeyIdx) :
    s.keyPressed k = s.setKey k true := by
  unfold State.keyPressed
  split
  · rename_i x e; exact absurd e (h x)
  · rfl

end Sys2Proof.Machine
end

