-- ==== Sys2Proof/Laws/PerInstr.lean ====
section
/-! SUPPORT. Laws stated once for every constructor of Instr. EncodesItsRow: the word of an instruction has the fixed bits
of its row of the opcode map (30_encoding.md R78). -/

namespace Sys2Proof.Laws.EncodesItsRow

/-- The encoding of `i` is selected by the mask and pattern of the row of `i` (R78). -/
def Statement (i : Instr) : Prop := (rowOf i).selects (encode i) = true

/-- Formats FA: the class nibble alone is fixed. -/
theorem mask_FA (op : BitVec 4) (nnn : Addr12) : (op ++ nnn) &&& 0xF000#16 = op ++ 0#12 := by
  apply BitVec.eq_of_getLsbD_eq
  intro k hk
  rw [BitVec.getLsbD_and, BitVec.getLsbD_append, BitVec.getLsbD_append]
  interval_cases k <;> simp

/-- Formats FI and DRW: the class nibble alone is fixed. -/
theorem mask_FI (op x : BitVec 4) (nn : Byte) : (op ++ x ++ nn) &&& 0xF000#16 = op ++ 0#12 := by
  apply BitVec.eq_of_getLsbD_eq
  intro k hk
  rw [BitVec.getLsbD_and, BitVec.getLsbD_append, BitVec.getLsbD_append, BitVec.getLsbD_append]
  interval_cases k <;> simp

/-- Format FR: the class nibble and the sub-opcode nibble are fixed. -/
theorem mask_FR (op x y n : BitVec 4) : (op ++ x ++ y ++ n) &&& 0xF00F#16 = op ++ 0#8 ++ n := by
  apply BitVec.eq_of_getLsbD_eq
  intro k hk
  rw [BitVec.getLsbD_and, BitVec.getLsbD_append, BitVec.getLsbD_append, BitVec.getLsbD_append, BitVec.getLsbD_append,
    BitVec.getLsbD_append]
  interval_cases k <;> simp

/-- The three-nibble operand of DRW. -/
theorem mask_DRW (op x y n : BitVec 4) : (op ++ x ++ y ++ n) &&& 0xF000#16 = op ++ 0#12 := by
  apply BitVec.eq_of_getLsbD_eq
  intro k hk
  rw [BitVec.getLsbD_and, BitVec.getLsbD_append, BitVec.getLsbD_append, BitVec.getLsbD_append, BitVec.getLsbD_append]
  interval_cases k <;> simp

/-- Format FX: the class nibble and the sub-opcode byte are fixed. -/
theorem mask_FX (op x : BitVec 4) (nn : Byte) : (op ++ x ++ nn) &&& 0xF0FF#16 = op ++ 0#4 ++ nn := by
  apply BitVec.eq_of_getLsbD_eq
  intro k hk
  rw [BitVec.getLsbD_and, BitVec.getLsbD_append, BitVec.getLsbD_append, BitVec.getLsbD_append, BitVec.getLsbD_append]
  interval_cases k <;> simp

theorem cls : Statement .cls :=
  rfl

theorem ret : Statement .ret :=
  rfl

theorem sys (nnn : Addr12) : Statement (.sys nnn) :=
  by rw [Statement, rowOf, encode, OpcodeRow.selects, mask_FA]; rfl

theorem jp (nnn : Addr12) : Statement (.jp nnn) :=
  by rw [Statement, rowOf, encode, OpcodeRow.selects, mask_FA]; rfl

theorem call (nnn : Addr12) : Statement (.call nnn) :=
  by rw [Statement, rowOf, encode, OpcodeRow.selects, mask_FA]; rfl

theorem seByte (x : RegIdx) (nn : Byte) : Statement (.seByte x nn) :=
  by rw [Statement, rowOf, encode, OpcodeRow.selects, mask_FI]; rfl

theorem sneByte (x : RegIdx) (nn : Byte) : Statement (.sneByte x nn) :=
  by rw [Statement, rowOf, encode, OpcodeRow.selects, mask_FI]; rfl

theorem seReg (x : RegIdx) (y : RegIdx) : Statement (.seReg x y) :=
  by rw [Statement, rowOf, encode, OpcodeRow.selects, mask_FR]; rfl

theorem ldByte (x : RegIdx) (nn : Byte) : Statement (.ldByte x nn) :=
  by rw [Statement, rowOf, encode, OpcodeRow.selects, mask_FI]; rfl

theorem addByte (x : RegIdx) (nn : Byte) : Statement (.addByte x nn) :=
  by rw [Statement, rowOf, encode, OpcodeRow.selects, mask_FI]; rfl

theorem ldReg (x : RegIdx) (y : RegIdx) : Statement (.ldReg x y) :=
  by rw [Statement, rowOf, encode, OpcodeRow.selects, mask_FR]; rfl

theorem orReg (x : RegIdx) (y : RegIdx) : Statement (.orReg x y) :=
  by rw [Statement, rowOf, encode, OpcodeRow.selects, mask_FR]; rfl

theorem andReg (x : RegIdx) (y : RegIdx) : Statement (.andReg x y) :=
  by rw [Statement, rowOf, encode, OpcodeRow.selects, mask_FR]; rfl

theorem xorReg (x : RegIdx) (y : RegIdx) : Statement (.xorReg x y) :=
  by rw [Statement, rowOf, encode, OpcodeRow.selects, mask_FR]; rfl

theorem addReg (x : RegIdx) (y : RegIdx) : Statement (.addReg x y) :=
  by rw [Statement, rowOf, encode, OpcodeRow.selects, mask_FR]; rfl

theorem sub (x : RegIdx) (y : RegIdx) : Statement (.sub x y) :=
  by rw [Statement, rowOf, encode, OpcodeRow.selects, mask_FR]; rfl

theorem shr (x : RegIdx) (y : RegIdx) : Statement (.shr x y) :=
  by rw [Statement, rowOf, encode, OpcodeRow.selects, mask_FR]; rfl

theorem subn (x : RegIdx) (y : RegIdx) : Statement (.subn x y) :=
  by rw [Statement, rowOf, encode, OpcodeRow.selects, mask_FR]; rfl

theorem shl (x : RegIdx) (y : RegIdx) : Statement (.shl x y) :=
  by rw [Statement, rowOf, encode, OpcodeRow.selects, mask_FR]; rfl

theorem sneReg (x : RegIdx) (y : RegIdx) : Statement (.sneReg x y) :=
  by rw [Statement, rowOf, encode, OpcodeRow.selects, mask_FR]; rfl

theorem ldI (nnn : Addr12) : Statement (.ldI nnn) :=
  by rw [Statement, rowOf, encode, OpcodeRow.selects, mask_FA]; rfl

theorem jpV0 (nnn : Addr12) : Statement (.jpV0 nnn) :=
  by rw [Statement, rowOf, encode, OpcodeRow.selects, mask_FA]; rfl

theorem rnd (x : RegIdx) (nn : Byte) : Statement (.rnd x nn) :=
  by rw [Statement, rowOf, encode, OpcodeRow.selects, mask_FI]; rfl

theorem drw (x : RegIdx) (y : RegIdx) (n : Nibble) : Statement (.drw x y n) :=
  by rw [Statement, rowOf, encode, OpcodeRow.selects, mask_DRW]; rfl

theorem skp (x : RegIdx) : Statement (.skp x) :=
  by rw [Statement, rowOf, encode, OpcodeRow.selects, mask_FX]; rfl

theorem sknp (x : RegIdx) : Statement (.sknp x) :=
  by rw [Statement, rowOf, encode, OpcodeRow.selects, mask_FX]; rfl

theorem ldVxDT (x : RegIdx) : Statement (.ldVxDT x) :=
  by rw [Statement, rowOf, encode, OpcodeRow.selects, mask_FX]; rfl

theorem ldVxK (x : RegIdx) : Statement (.ldVxK x) :=
  by rw [Statement, rowOf, encode, OpcodeRow.selects, mask_FX]; rfl

theorem ldDT (x : RegIdx) : Statement (.ldDT x) :=
  by rw [Statement, rowOf, encode, OpcodeRow.selects, mask_FX]; rfl

theorem ldST (x : RegIdx) : Statement (.ldST x) :=
  by rw [Statement, rowOf, encode, OpcodeRow.selects, mask_FX]; rfl

theorem addI (x : RegIdx) : Statement (.addI x) :=
  by rw [Statement, rowOf, encode, OpcodeRow.selects, mask_FX]; rfl

theorem ldF (x : RegIdx) : Statement (.ldF x) :=
  by rw [Statement, rowOf, encode, OpcodeRow.selects, mask_FX]; rfl

theorem ldB (x : RegIdx) : Statement (.ldB x) :=
  by rw [Statement, rowOf, encode, OpcodeRow.selects, mask_FX]; rfl

theorem stRegs (x : RegIdx) : Statement (.stRegs x) :=
  by rw [Statement, rowOf, encode, OpcodeRow.selects, mask_FX]; rfl

theorem ldRegs (x : RegIdx) : Statement (.ldRegs x) :=
  by rw [Statement, rowOf, encode, OpcodeRow.selects, mask_FX]; rfl

end Sys2Proof.Laws.EncodesItsRow
end

