-- ==== Sys2Proof/Tests/Slice0.lean ====
section
/-! SUPPORT. Tests of one step each, the expected values taken from the worked examples and test vectors of spec/ (named in
each comment), and a witness for the hypotheses of each obligation. -/

namespace Sys2Proof.Tests

open Sys2Proof.Machine

/-! ### Helpers -/

/-- The reset state with word `w` where the next core step fetches it. -/
def at200 (w : Half) : State := State.reset.placeWord w

/-- The next state of an outcome. -/
def nextState : Host.Outcome State Fault Refusal → Option State
  | .next t => some t
  | .fault _ => none
  | .refused _ => none

/-- What `f` reads in the next state of an outcome. -/
def reads {α : Type} (o : Host.Outcome State Fault Refusal) (f : State → α) : Option α := (nextState o).map f

/-- Whether an outcome is a fault of the model. -/
def stops : Host.Outcome State Fault Refusal → Bool
  | .fault _ => true
  | _ => false

/-- The pixels of a frame buffer that are on, among those listed. -/
def litAmong (ps : List (Fin 64 × Fin 32)) (s : State) : List Bool := ps.map (fun p => FrameBuffer.pixel s.fb p.1 p.2)

/-- The state with one byte of memory written. -/
def withByte (s : State) (a : Nat) (b : Byte) : State := s.setMem (s.mem.write a b)

/-- The reset state with one event scheduled. -/
def scheduled (e : Event) : State := { State.reset with schedule := [e] }

/-- The state after the host's reset, with one event scheduled. -/
def stopped (e : Event) : State := { scheduled e with started := false }

/-! ### Well-formedness (WellFormed.lean) -/

/-- 00E0 is CLS and 00EE is RET, so SYS with these addresses is refused (R77); 00E1 and 0000 are SYS (V3, V1). -/
theorem test_wellFormed_sys_cls : ¬ WellFormed (.sys 0x0E0#12) := by decide
theorem test_wellFormed_sys_ret : ¬ WellFormed (.sys 0x0EE#12) := by decide
theorem test_wellFormed_sys_other : WellFormed (.sys 0x0E1#12) ∧ WellFormed (.sys 0x000#12) := by decide

/-! ### Decoding: one word per constructor, written out from the patterns of R78 (many are words of 95_test_vectors.md) -/

theorem test_decode_cls : decode 0x00E0#16 = .ok .cls := by decide
theorem test_decode_ret : decode 0x00EE#16 = .ok .ret := by decide
theorem test_decode_sys : decode 0x0FFF#16 = .ok (.sys 0xFFF#12) := by decide
theorem test_decode_jp : decode 0x1234#16 = .ok (.jp 0x234#12) := by decide
theorem test_decode_call : decode 0x2300#16 = .ok (.call 0x300#12) := by decide
theorem test_decode_seByte : decode 0x332A#16 = .ok (.seByte 0x3#4 0x2A#8) := by decide
theorem test_decode_sneByte : decode 0x432A#16 = .ok (.sneByte 0x3#4 0x2A#8) := by decide
theorem test_decode_seReg : decode 0x5120#16 = .ok (.seReg 0x1#4 0x2#4) := by decide
theorem test_decode_ldByte : decode 0x6FAB#16 = .ok (.ldByte 0xF#4 0xAB#8) := by decide
theorem test_decode_addByte : decode 0x7220#16 = .ok (.addByte 0x2#4 0x20#8) := by decide
theorem test_decode_ldReg : decode 0x8340#16 = .ok (.ldReg 0x3#4 0x4#4) := by decide
theorem test_decode_orReg : decode 0x8121#16 = .ok (.orReg 0x1#4 0x2#4) := by decide
theorem test_decode_andReg : decode 0x8122#16 = .ok (.andReg 0x1#4 0x2#4) := by decide
theorem test_decode_xorReg : decode 0x8123#16 = .ok (.xorReg 0x1#4 0x2#4) := by decide
theorem test_decode_addReg : decode 0x8AB4#16 = .ok (.addReg 0xA#4 0xB#4) := by decide
theorem test_decode_sub : decode 0x8125#16 = .ok (.sub 0x1#4 0x2#4) := by decide
theorem test_decode_shr : decode 0x8126#16 = .ok (.shr 0x1#4 0x2#4) := by decide
theorem test_decode_subn : decode 0x8127#16 = .ok (.subn 0x1#4 0x2#4) := by decide
theorem test_decode_shl : decode 0x812E#16 = .ok (.shl 0x1#4 0x2#4) := by decide
theorem test_decode_sneReg : decode 0x9120#16 = .ok (.sneReg 0x1#4 0x2#4) := by decide
theorem test_decode_ldI : decode 0xA2F0#16 = .ok (.ldI 0x2F0#12) := by decide
theorem test_decode_jpV0 : decode 0xB2FE#16 = .ok (.jpV0 0x2FE#12) := by decide
theorem test_decode_rnd : decode 0xC30F#16 = .ok (.rnd 0x3#4 0x0F#8) := by decide
theorem test_decode_drw : decode 0xD12F#16 = .ok (.drw 0x1#4 0x2#4 0xF#4) := by decide
theorem test_decode_skp : decode 0xE29E#16 = .ok (.skp 0x2#4) := by decide
theorem test_decode_sknp : decode 0xE2A1#16 = .ok (.sknp 0x2#4) := by decide
theorem test_decode_ldVxDT : decode 0xF407#16 = .ok (.ldVxDT 0x4#4) := by decide
theorem test_decode_ldVxK : decode 0xF30A#16 = .ok (.ldVxK 0x3#4) := by decide
theorem test_decode_ldDT : decode 0xF415#16 = .ok (.ldDT 0x4#4) := by decide
theorem test_decode_ldST : decode 0xF418#16 = .ok (.ldST 0x4#4) := by decide
theorem test_decode_addI : decode 0xF21E#16 = .ok (.addI 0x2#4) := by decide
theorem test_decode_ldF : decode 0xF329#16 = .ok (.ldF 0x3#4) := by decide
theorem test_decode_ldB : decode 0xF433#16 = .ok (.ldB 0x4#4) := by decide
theorem test_decode_stRegs : decode 0xF255#16 = .ok (.stRegs 0x2#4) := by decide
theorem test_decode_ldRegs : decode 0xF265#16 = .ok (.ldRegs 0x2#4) := by decide

/-- Illegal words (V180, V75, V181, V157, V183), refused by name, and bytes that hold no word. -/
theorem test_decode_illegal :
    decode 0x5121#16 = .error .class5 ∧ decode 0x812F#16 = .error .class8 ∧ decode 0x9121#16 = .error .class9 ∧
    decode 0xE29F#16 = .error .classE ∧ decode 0xF375#16 = .error .classF ∧ decodeBytes [0x60#8] = .error .truncated := by
  decide

/-- Two bytes in memory order are read high byte first (T7: 60 0A). -/
theorem test_decodeBytes : decodeBytes [0x60#8, 0x0A#8, 0x61#8] = .ok (.ldByte 0x0#4 0x0A#8, [0x61#8]) := by decide

theorem test_decodeTableWord : decodeTableWord 16 0x2300 = some (.call 0x300#12) ∧ decodeTableWord 16 0x5121 = none := by
  decide

/-- The fields of 0xD12F (95_test_vectors.md, after V188). -/
theorem test_fields : opField 0xD12F#16 = 0xD#4 ∧ xField 0xD12F#16 = 0x1#4 ∧ yField 0xD12F#16 = 0x2#4 ∧
    nField 0xD12F#16 = 0xF#4 ∧ nnField 0xD12F#16 = 0x2F#8 ∧ nnnField 0xD12F#16 = 0x12F#12 := by decide

/-! ### One step per instruction (vectors of 95_test_vectors.md) -/

/-- V2. -/
theorem test_sys : reads (step (at200 0x0FFF#16)) (fun t => (t.run, t.err, t.pc)) =
    some (.halted, some ⟨.unknownOpcode, 0x200#16, 0x0FFF⟩, 0x200#16) := by decide

/-- V4. -/
theorem test_ret : reads (exec .ret { State.reset with
      pc := 0x300#16, sp := 2, stack := (State.reset.stack.set 0 0x0202#16).set 1 0x02A0#16 })
    (fun t => (t.sp, t.pc, t.stackAt 1)) = some (1, 0x2A0#16, 0x02A0#16) := by decide

/-- V5. -/
theorem test_ret_underflow : reads (step (at200 0x00EE#16)) (fun t => (t.err, t.sp)) =
    some (some ⟨.stackUnderflow, 0x200#16, 0⟩, 0) := by decide

/-- V6. -/
theorem test_jp : reads (step (at200 0x1FFE#16)) (fun t => t.pc) = some 0xFFE#16 := by decide

/-- V11. -/
theorem test_call_sixteenth : reads (step { at200 0x2300#16 with sp := 15 })
    (fun t => (t.stackAt 15, t.sp, t.pc)) = some (0x0202#16, 16, 0x300#16) := by decide

/-- V12. -/
theorem test_call_overflow : reads (step { at200 0x2300#16 with sp := 16 }) (fun t => (t.err, t.sp, t.pc)) =
    some (some ⟨.stackOverflow, 0x200#16, 0⟩, 16, 0x200#16) := by decide

/-- V15 and the example of R104. -/
theorem test_seByte : reads (step ((at200 0x332A#16).setV 0x3#4 0x2B#8)) (fun t => t.pc) = some 0x202#16 ∧
    reads (step ((at200 0x332A#16).setV 0x3#4 0x2A#8)) (fun t => t.pc) = some 0x204#16 := by decide

/-- V17, V18. -/
theorem test_sneByte : reads (step ((at200 0x4F01#16).setV 0xF#4 0x01#8)) (fun t => t.pc) = some 0x202#16 ∧
    reads (step ((at200 0x432A#16).setV 0x3#4 0x2B#8)) (fun t => t.pc) = some 0x204#16 := by decide

/-- V19, V20. -/
theorem test_seReg : reads (step ((at200 0x5AA0#16).setV 0xA#4 9#8)) (fun t => t.pc) = some 0x204#16 ∧
    reads (step (((at200 0x5120#16).setV 0x1#4 1#8).setV 0x2#4 2#8)) (fun t => t.pc) = some 0x202#16 := by decide

/-- V21, V22. -/
theorem test_sneReg : reads (step ((at200 0x9AA0#16).setV 0xA#4 9#8)) (fun t => t.pc) = some 0x202#16 ∧
    reads (step (((at200 0x9120#16).setV 0x1#4 1#8).setV 0x2#4 2#8)) (fun t => t.pc) = some 0x204#16 := by decide

/-- V24, V25. -/
theorem test_jpV0 : reads (step (((at200 0xB2FE#16).setV 0x0#4 2#8).setV 0x2#4 0x80#8)) (fun t => t.pc) = some 0x300#16 ∧
    reads (step ((at200 0xBFFF#16).setV 0x0#4 0xFF#8)) (fun t => t.pc) = some 0x10FE#16 := by decide

/-- V30. -/
theorem test_ldByte : reads (step (at200 0x6FAB#16)) (fun t => (t.getV 0xF#4, t.pc)) = some (0xAB#8, 0x202#16) := by decide

/-- V31. -/
theorem test_addByte : reads (step (((at200 0x7001#16).setV 0x0#4 0xFF#8).setV 0xF#4 7#8))
    (fun t => (t.getV 0x0#4, t.getV 0xF#4)) = some (0#8, 7#8) := by decide

/-- V35. -/
theorem test_ldReg : reads (step ((at200 0x81F0#16).setV 0xF#4 0x42#8)) (fun t => t.getV 0x1#4) = some 0x42#8 := by decide

/-- V36. -/
theorem test_orReg : reads (step ((((at200 0x8121#16).setV 0x1#4 0xAA#8).setV 0x2#4 0x55#8).setV 0xF#4 9#8))
    (fun t => (t.getV 0x1#4, t.getV 0xF#4)) = some (0xFF#8, 9#8) := by decide

/-- The example of R124. -/
theorem test_andReg : reads (step (((at200 0x8122#16).setV 0x1#4 0xF0#8).setV 0x2#4 0x3C#8))
    (fun t => t.getV 0x1#4) = some 0x30#8 := by decide

/-- The example of R125. -/
theorem test_xorReg : reads (step (((at200 0x8123#16).setV 0x1#4 0xF0#8).setV 0x2#4 0x3C#8))
    (fun t => t.getV 0x1#4) = some 0xCC#8 := by decide

/-- V41, V47. -/
theorem test_addReg : reads (step (((at200 0x8124#16).setV 0x1#4 0xFF#8).setV 0x2#4 1#8))
      (fun t => (t.getV 0x1#4, t.getV 0xF#4)) = some (0#8, 1#8) ∧
    reads (step (((at200 0x81F4#16).setV 0x1#4 0x10#8).setV 0xF#4 5#8))
      (fun t => (t.getV 0x1#4, t.getV 0xF#4)) = some (0x15#8, 0#8) := by decide

/-- V45: the sum is lost, the carry kept. -/
theorem test_addReg_VF : reads (step (((at200 0x8F14#16).setV 0xF#4 0xF0#8).setV 0x1#4 0x20#8))
    (fun t => t.getV 0xF#4) = some 1#8 := by decide

/-- V51, V52. -/
theorem test_sub : reads (step (((at200 0x8125#16).setV 0x1#4 5#8).setV 0x2#4 0x0A#8))
      (fun t => (t.getV 0x1#4, t.getV 0xF#4)) = some (0xFB#8, 0#8) ∧
    reads (step (((at200 0x8125#16).setV 0x1#4 7#8).setV 0x2#4 7#8))
      (fun t => (t.getV 0x1#4, t.getV 0xF#4)) = some (0#8, 1#8) := by decide

/-- V65, V67. -/
theorem test_shr : reads (step (((at200 0x8126#16).setV 0x1#4 4#8).setV 0x2#4 0xFF#8))
      (fun t => (t.getV 0x1#4, t.getV 0x2#4, t.getV 0xF#4)) = some (2#8, 0xFF#8, 0#8) ∧
    reads (step ((at200 0x8F06#16).setV 0xF#4 2#8)) (fun t => t.getV 0xF#4) = some 0#8 := by decide

/-- V58, V61. -/
theorem test_subn : reads (step (((at200 0x8127#16).setV 0x1#4 0x0A#8).setV 0x2#4 5#8))
      (fun t => (t.getV 0x1#4, t.getV 0xF#4)) = some (0xFB#8, 0#8) ∧
    reads (step (((at200 0x8F17#16).setV 0xF#4 3#8).setV 0x1#4 5#8)) (fun t => t.getV 0xF#4) = some 1#8 := by decide

/-- V69, V73. -/
theorem test_shl : reads (step ((at200 0x810E#16).setV 0x1#4 0xFF#8))
      (fun t => (t.getV 0x1#4, t.getV 0xF#4)) = some (0xFE#8, 1#8) ∧
    reads (step ((at200 0x8F0E#16).setV 0xF#4 0x7F#8)) (fun t => t.getV 0xF#4) = some 0#8 := by decide

/-- V80. -/
theorem test_ldI : reads (step (at200 0xAFFF#16)) (fun t => t.I) = some 0x0FFF#16 := by decide

/-- V82, V83. -/
theorem test_addI : reads (step { (at200 0xF21E#16).setV 0x2#4 1#8 with I := 0x0FFF#16 }) (fun t => t.I) = some 0x1000#16 ∧
    reads (step { ((at200 0xF21E#16).setV 0x2#4 1#8).setV 0xF#4 7#8 with I := 0xFFFF#16 })
      (fun t => (t.I, t.getV 0xF#4)) = some (0#16, 7#8) := by decide

/-- V87, V88. -/
theorem test_ldF : reads (step ((at200 0xF329#16).setV 0x3#4 0x0F#8)) (fun t => t.I) = some 0x009B#16 ∧
    reads (step ((at200 0xF329#16).setV 0x3#4 0x1A#8)) (fun t => t.I) = some 0x0082#16 := by decide

/-- V98. -/
theorem test_ldB : reads (exec (.ldB 0x4#4) { State.reset.setV 0x4#4 255#8 with I := 4093 })
    (fun t => (t.mem.read 4093, t.mem.read 4094, t.mem.read 4095, t.I)) = some (2#8, 5#8, 5#8, 4093) := by decide

/-- V99, V101. -/
theorem test_ldB_outOfRange : reads (exec (.ldB 0x4#4) { State.reset.setV 0x4#4 255#8 with I := 4094 })
      (fun t => (t.err, t.mem.read 4094)) = some (some ⟨.addressOutOfRange, 0x200#16, 4096⟩, 0#8) ∧
    reads (exec (.ldB 0x4#4) { State.reset with I := 0xFFFF#16 }) (fun t => (t.err, t.mem.read 0)) =
      some (some ⟨.addressOutOfRange, 0x200#16, 65535⟩, 0#8) := by decide

/-- The example of R144. -/
theorem test_stRegs : reads (exec (.stRegs 0x2#4)
      { ((State.reset.setV 0x0#4 0x11#8).setV 0x1#4 0x22#8).setV 0x2#4 0x33#8 with I := 0x400#16 })
    (fun t => (t.mem.readBytes 0x400 4, t.I)) = some ([0x11#8, 0x22#8, 0x33#8, 0#8], 0x400#16) := by decide

/-- V107. -/
theorem test_stRegs_outOfRange : reads (exec (.stRegs 0x1#4) { State.reset.setV 0x0#4 0x11#8 with I := 0xFFF#16 })
    (fun t => (t.err, t.mem.read 0xFFF)) = some (some ⟨.addressOutOfRange, 0x200#16, 4096⟩, 0#8) := by decide

/-- V113: font digit 0. -/
theorem test_ldRegs : reads (exec (.ldRegs 0x4#4) { State.reset.setV 0x5#4 0x77#8 with I := 0x050#16 })
    (fun t => (t.regsTo 0x5#4, t.I)) = some ([0xF0#8, 0x90#8, 0x90#8, 0x90#8, 0xF0#8, 0x77#8], 0x050#16) := by decide

/-- V111. -/
theorem test_ldRegs_outOfRange : reads (exec (.ldRegs 0x1#4) { State.reset.setV 0x0#4 1#8 with I := 0xFFF#16 })
    (fun t => (t.err, t.getV 0x0#4)) = some (some ⟨.addressOutOfRange, 0x200#16, 4096⟩, 1#8) := by decide

/-- V120, V121: the drawn byte is given in the state. -/
theorem test_rnd : reads (step { at200 0xC30F#16 with rng := [0xA7#8] }) (fun t => (t.getV 0x3#4, t.draws)) = some (7#8, 1) ∧
    reads (step { at200 0xC300#16 with rng := [0xFF#8] }) (fun t => t.getV 0x3#4) = some 0#8 := by decide

/-- V130. -/
theorem test_cls : reads (step { (at200 0x00E0#16).setV 0xF#4 5#8 with fb := FrameBuffer.flip State.reset.fb 63 31 })
    (fun t => (litAmong [(63, 31)] t, t.getV 0xF#4, t.displayUpdates)) = some ([false], 5#8, 1) := by decide

/-- V131: the second pixel wraps. -/
theorem test_drw_wraps : reads (step { withByte (((at200 0xD011#16).setV 0x0#4 63#8).setV 0x1#4 31#8) 0x300 0xC0#8 with
      I := 0x300#16 })
    (fun t => (litAmong [(63, 31), (0, 31), (1, 31), (62, 31), (0, 0)] t, t.getV 0xF#4)) =
      some ([true, true, false, false, false], 0#8) := by decide

/-- V134: a collision. -/
theorem test_drw_collides : reads (step { withByte (at200 0xD011#16) 0x300 0x80#8 with
      I := 0x300#16, fb := FrameBuffer.flip State.reset.fb 0 0 })
    (fun t => (litAmong [(0, 0)] t, t.getV 0xF#4)) = some ([false], 1#8) := by decide

/-- V150, V153. -/
theorem test_skp : reads (step (((at200 0xE29E#16).setV 0x2#4 5#8).setKey 0x5#4 true)) (fun t => t.pc) = some 0x204#16 ∧
    reads (step ((at200 0xE29E#16).setV 0x2#4 0xF5#8)) (fun t => t.pc) = some 0x202#16 := by decide

/-- V154, V156. -/
theorem test_sknp : reads (step (((at200 0xE2A1#16).setV 0x2#4 5#8).setKey 0x5#4 true)) (fun t => t.pc) = some 0x202#16 ∧
    reads (step (((at200 0xE2A1#16).setV 0x2#4 0x1A#8).setKey 0xA#4 true)) (fun t => t.pc) = some 0x202#16 := by decide

/-- V159. -/
theorem test_ldVxK : reads (step (((at200 0xF30A#16).setV 0x3#4 0x55#8).setKey 0x7#4 true))
    (fun t => (t.run, t.pc, t.getV 0x3#4)) = some (.awaitKey 0x3#4, 0x202#16, 0x55#8) := by decide

/-- V170. -/
theorem test_ldVxDT : reads (step { at200 0xF407#16 with DT := 0x2A#8 }) (fun t => (t.getV 0x4#4, t.DT)) =
    some (0x2A#8, 0x2A#8) := by decide

/-- V172. -/
theorem test_ldDT : reads (step ((at200 0xF415#16).setV 0x4#4 0xFF#8)) (fun t => t.DT) = some 255#8 := by decide

/-- V174, V175. -/
theorem test_ldST : reads (step { at200 0xF418#16 with ST := 9#8 }) (fun t => (t.ST, t.soundOn)) = some (0#8, false) ∧
    reads (step ((at200 0xF418#16).setV 0x4#4 1#8)) (fun t => (t.ST, t.soundOn)) = some (1#8, true) := by decide

/-! ### The core step and the other agents -/

/-- R110: 0x1200 at 0x200 is the idle loop, 0x1202 there is not. -/
theorem test_finished : (at200 0x1200#16).finished ∧ ¬ (at200 0x1202#16).finished := by unfold State.finished; decide

/-- V7's second step: fetch at an odd pc. -/
theorem test_fetch_odd : reads (step { State.reset with pc := 0xFFF#16 }) (fun t => (t.err, t.pc)) =
    some (some ⟨.addressOutOfRange, 0xFFF#16, 0xFFF⟩, 0xFFF#16) := by decide

/-- V74: an illegal word. -/
theorem test_step_illegal : reads (step (at200 0x8128#16)) (fun t => (t.err, t.errCode)) =
    some (some ⟨.unknownOpcode, 0x200#16, 0x8128⟩, 1) := by decide

/-- T7's first step, through the host's placing of a word. -/
theorem test_withFetchWord : reads (step (State.reset.withFetchWord 16 0x600A)) (fun t => (t.getV 0x0#4, t.pc)) =
    some (0x0A#8, 0x202#16) := by decide

/-- V177: a tick in HALTED. -/
theorem test_tick : reads (step { State.reset with DT := 1#8, ST := 255#8, run := .halted, schedule := [.tick] })
    (fun t => (t.DT, t.ST)) = some (0#8, 254#8) := by decide

/-- V160: the press of key 7 ends the wait. -/
theorem test_keyPress : reads (step { State.reset with run := .awaitKey 0x3#4, schedule := [.keyPress 0x7#4] })
    (fun t => (t.getV 0x3#4, t.run, t.keyDown 0x7#4)) = some (7#8, .running, true) := by decide

/-- V160: the release of key 7 does not. -/
theorem test_keyRelease : reads (step { State.reset.setKey 0x7#4 true with
      run := .awaitKey 0x3#4, schedule := [.keyRelease 0x7#4] })
    (fun t => (t.run, t.keyDown 0x7#4)) = some (.awaitKey 0x3#4, false) := by decide

/-- R36: a key that is down cannot go down. -/
theorem test_keyPress_notEnabled : stops (step { State.reset.setKey 0x7#4 true with schedule := [.keyPress 0x7#4] }) = true := by
  decide

/-- The state after the host's reset: the core is stopped (R240). -/
theorem test_reset_event : reads (step { at200 0x600A#16 with schedule := [.reset] })
    (fun t => (t.started, t.pc, t.mem.cells)) = some (false, 0x200#16, []) := by decide

/-- V192's load of one byte. -/
theorem test_load : reads (step { State.reset with started := false, schedule := [.load [0x60#8]] })
    (fun t => (t.mem.read 0x200, t.mem.read 0x201)) = some (0x60#8, 0#8) := by decide

/-- Log 17: a second load overlays the first. -/
theorem test_load_again : reads (step { withByte (stopped (.load [0x60#8])) 0x201 0x0A#8 with schedule := [.load [0x61#8]] })
    (fun t => (t.mem.read 0x200, t.mem.read 0x201)) = some (0x61#8, 0x0A#8) := by decide

/-- R244. -/
theorem test_start : reads (step { State.reset with started := false, schedule := [.start] })
    (fun t => (t.started, t.run)) = some (true, .running) := by decide

/-- Writing the value an unlisted address reads as removes the entry (log 5). -/
theorem test_memory_canonical : (withByte (withByte State.reset 0x300 1#8) 0x300 0#8).mem = State.reset.mem ∧
    (withByte (withByte State.reset 0x400 1#8) 0x300 2#8).mem.wf = true := by decide

/-! ### Witnesses: concrete states and operands that meet the hypotheses of each obligation, clause by clause -/

/-- A next state with a decidable property, found by evaluation. -/
theorem exists_next {o : Host.Outcome State Fault Refusal} {p : State → Prop} [DecidablePred p]
    (h : reads o (fun t => decide (p t)) = some true) : ∃ t, o = .next t ∧ p t := by
  cases o with
  | next t => exact ⟨t, rfl, by simpa [reads, nextState] using h⟩
  | fault r => cases h
  | refused r => cases h

/-- The reset state with I set. -/
def withI (i : Half) : State := { State.reset with I := i }

/-- The reset state with sp set. -/
def withSp (n : BitVec 8) : State := { State.reset with sp := n }

theorem witness_DecodeOfEncodeIsTheInstruction :
    WellFormed (.sys 0xFFF#12) ∧ WellFormed (.sys 0x0E1#12) ∧ WellFormed (.sys 0x0ED#12) ∧ WellFormed .cls ∧
      WellFormed (.drw 0xF#4 0xF#4 0xF#4) := by decide

theorem witness_EncodeOfDecodeIsTheWord :
    decode 0x00E1#16 = .ok (.sys 0x0E1#12) ∧ decode 0xFF65#16 = .ok (.ldRegs 0xF#4) := by decide

theorem witness_FetchIsBigEndianAtPc :
    decode (at200 0x600A#16).fetchWord = .ok (.ldByte 0x0#4 0x0A#8) ∧ decode (at200 0x5121#16).fetchWord = .error .class5 := by
  decide

/-- Both ends of the fetchable range, each clause. -/
theorem witness_StepRunsTheDecodedInstruction :
    (∀ s ∈ [at200 0x600A#16, ({ State.reset with pc := 0xFFE#16 } : State).placeWord 0x600A#16],
      s.nextUp = .core ∧ s.started = true ∧ s.run = .running ∧ s.pc.toNat % 2 = 0 ∧ 0x200 ≤ s.pc.toNat ∧ s.pc.toNat < 4096 ∧
        decode s.fetchWord = .ok (.ldByte 0x0#4 0x0A#8)) ∧
    (∀ s ∈ [at200 0x8128#16, ({ State.reset with pc := 0xFFE#16 } : State).placeWord 0x8128#16],
      s.nextUp = .core ∧ s.started = true ∧ s.run = .running ∧ s.pc.toNat % 2 = 0 ∧ 0x200 ≤ s.pc.toNat ∧ s.pc.toNat < 4096 ∧
        decode s.fetchWord = .error .class8) := by decide

theorem witness_FetchFromBadPcFaults :
    ∀ pc ∈ [0x201#16, 0xFFF#16, 0x1FE#16, 0x000#16, 0x1000#16, 0xFFFE#16],
      ({ State.reset with pc := pc } : State).nextUp = .core ∧ ({ State.reset with pc := pc } : State).started = true ∧
        ({ State.reset with pc := pc } : State).run = .running ∧
        (pc.toNat % 2 = 1 ∨ pc.toNat < 0x200 ∨ 4096 ≤ pc.toNat) :=
  fun pc h => ⟨rfl, rfl, rfl, by revert pc; simp⟩

theorem witness_CoreIdlesUnlessRunning :
    (stopped .core).nextUp = .core ∧ (stopped .core).started = false ∧
      (∀ r ∈ [RunState.awaitKey 0x3#4, RunState.halted],
        ({ State.reset with run := r } : State).nextUp = .core ∧ ({ State.reset with run := r } : State).run ≠ .running) := by
  decide

theorem witness_FaultEntryWritesOnlyRunAndErr :
    (∃ t, step (at200 0x00EE#16) = .next t ∧ t.run = .halted) ∧
      (at200 0x00EE#16).nextUp = .core ∧ (at200 0x00EE#16).run = .running :=
  ⟨exists_next (by decide), by decide⟩

/-- The state after that fault, with the core next again. -/
theorem witness_FaultEntryWritesOnlyRunAndErr_next :
    ∃ t, step (at200 0x00EE#16) = .next t ∧ t.run = .halted ∧ t.nextUp = .core := exists_next (by decide)

/-- One fault of each clause, at the boundary values. -/
theorem witness_EachErrorHasItsInstructions :
    State.reset.run = .running ∧
    (∃ t, exec (.sys 0x000#12) State.reset = .next t ∧ t.run = .halted) ∧
    (∃ t, exec (.call 0x300#12) (withSp 16) = .next t ∧ t.run = .halted) ∧
    (∃ t, exec .ret (withSp 0) = .next t ∧ t.run = .halted) ∧
    (∃ t, exec (.drw 0x0#4 0x1#4 0x1#4) (withI 0x1000#16) = .next t ∧ t.run = .halted) ∧
    (∃ t, exec (.ldB 0x0#4) (withI 0xFFE#16) = .next t ∧ t.run = .halted) ∧
    (∃ t, exec (.stRegs 0x1#4) (withI 0xFFF#16) = .next t ∧ t.run = .halted) ∧
    (∃ t, exec (.ldRegs 0xF#4) (withI 0xFFFF#16) = .next t ∧ t.run = .halted) :=
  ⟨rfl, exists_next (by decide), exists_next (by decide), exists_next (by decide), exists_next (by decide),
    exists_next (by decide), exists_next (by decide), exists_next (by decide)⟩

/-- A tick, a key press and the core's turn in HALTED. -/
theorem witness_HaltedIsLeftOnlyByReset :
    ∀ e ∈ [Event.tick, Event.keyPress 0xF#4, Event.core],
      ({ scheduled e with run := .halted } : State).run = .halted ∧ ({ scheduled e with run := .halted } : State).nextUp ≠ .reset ∧
        (reads (step { scheduled e with run := .halted }) (fun t => t.run) = some .halted) := by decide

theorem witness_ReturnPopsOrUnderflows :
    (∀ n ∈ [1#8, 16#8], 0 < (withSp n).sp.toNat ∧ (withSp n).sp.toNat ≤ 16) ∧ (withSp 0).sp.toNat = 0 := by decide

theorem witness_StackPointerAboveSixteenPopsNothing : ∀ n ∈ [17#8, 255#8], 16 < (withSp n).sp.toNat := by decide

theorem witness_CallPushesOrOverflows :
    (∀ n ∈ [0#8, 15#8], (withSp n).sp.toNat < 16) ∧ (withSp 16).sp.toNat = 16 := by decide

/-- Sixteen calls from an empty stack, one call from fifteen entries, and the call that overflows after each. -/
theorem witness_NestedCallsUnwind :
    State.reset.sp.toNat + (List.replicate 15 (0x300#12 : Addr12)).length + 1 ≤ 16 ∧
    (withSp 15).sp.toNat + ([] : List Addr12).length + 1 ≤ 16 ∧
    State.reset.sp.toNat + (List.replicate 16 (0x300#12 : Addr12)).length = 16 ∧
    (withSp 16).sp.toNat + ([] : List Addr12).length = 16 := by decide

theorem witness_FlagWritersLeaveZeroOrOne :
    State.reset.run = .running ∧
    ∀ i ∈ [Instr.addReg 0x1#4 0x2#4, .sub 0x1#4 0x2#4, .shr 0x1#4 0x2#4, .subn 0x1#4 0x2#4, .shl 0x1#4 0x2#4, .drw 0x1#4 0x2#4 0x0#4,
        .drw 0x1#4 0x2#4 0xF#4],
      flagWriter i = true ∧ reads (exec i State.reset) (fun t => t.run) = some .running := by decide

theorem witness_RegistersChangeOnlyAsDestinations :
    (∃ t, exec (.ldByte 0x3#4 1#8) State.reset = .next t ∧ t.getV 0x3#4 ≠ State.reset.getV 0x3#4) ∧
    (∃ t, exec (.sub 0x1#4 0x2#4) State.reset = .next t ∧ t.getV 0xF#4 ≠ State.reset.getV 0xF#4) ∧
    (∃ t, exec (.ldRegs 0x0#4) (withI 0x050#16) = .next t ∧ t.getV 0x0#4 ≠ (withI 0x050#16).getV 0x0#4) :=
  ⟨exists_next (by decide), exists_next (by decide), exists_next (by decide)⟩

/-- The default font and the highest base that R10 admits. -/
theorem witness_LoadFPointsAtDigit :
    State.reset.mem.font.wf = true ∧ (⟨0x1B0#16, Config.defaultGlyphs⟩ : Font).wf = true := by decide

theorem witness_StoreDecimalDigits :
    (withI 4093).mem.wf = true ∧ (withI 4093).I.toNat + 2 ≤ 4095 ∧ (withI 0).I.toNat + 2 ≤ 4095 ∧
      (withI 4094).mem.wf = true ∧ (withI 4094).I.toNat + 2 > 4095 ∧ (withI 0xFFFF).I.toNat + 2 > 4095 :=
  ⟨rfl, by simp [withI], by simp [withI], rfl, by simp [withI], by simp [withI]⟩

theorem witness_StoreRegistersFromI :
    (∀ p ∈ [(4095#16, 0x0#4), (4080#16, 0xF#4), (0#16, 0xF#4)], (withI p.1).mem.wf = true ∧
      (withI p.1).I.toNat + p.2.toNat ≤ 4095) ∧
    (∀ p ∈ [(4096#16, 0x0#4), (4081#16, 0xF#4), (0xFFFF#16, 0xF#4)], (withI p.1).mem.wf = true ∧
      (withI p.1).I.toNat + p.2.toNat > 4095) :=
  ⟨fun p h => ⟨rfl, by revert p; simp [withI]⟩, fun p h => ⟨rfl, by revert p; simp [withI]⟩⟩

theorem witness_LoadRegistersFromI :
    (∀ p ∈ [(4095#16, 0x0#4), (4080#16, 0xF#4), (0#16, 0xF#4)], (withI p.1).I.toNat + p.2.toNat ≤ 4095) ∧
    (∀ p ∈ [(4096#16, 0x0#4), (4081#16, 0xF#4), (0xFFFF#16, 0xF#4)], (withI p.1).I.toNat + p.2.toNat > 4095) := by
  simp [withI]

theorem witness_OtherInstructionsDoNotReachMemory :
    reachesMemory (.ldF 0x3#4) = false ∧ ∃ t, exec (.ldF 0x3#4) State.reset = .next t ∧ t.I ≠ State.reset.I :=
  ⟨rfl, exists_next (by decide)⟩

theorem witness_StoreIsSeenByNextFetch :
    (withI 0x202#16).mem.wf = true ∧ (withI 0x202#16).I = (withI 0x202#16).pc + 2 ∧
      (∀ x ∈ [0x1#4, 0xF#4], (withI 0x202#16).I.toNat + x.toNat ≤ 4095 ∧ 1 ≤ x.toNat) ∧
      (withI 0x202#16).I.toNat + 2 ≤ 4095 := by decide

/-- One instruction that changes the state of each clause. -/
theorem witness_EachStateHasItsWriters_core :
    (∃ t, exec (.ldByte 0x3#4 1#8) State.reset = .next t ∧ t.getV 0x3#4 ≠ State.reset.getV 0x3#4) ∧
    (∃ t, exec (.jp 0x300#12) State.reset = .next t ∧ t.pc ≠ State.reset.pc + 2 ∧ t.pc ≠ State.reset.pc) ∧
    (∃ t, exec (.ldVxK 0x3#4) State.reset = .next t ∧ t.run ≠ State.reset.run) ∧
    (∃ t, exec .ret State.reset = .next t ∧ t.pc ≠ State.reset.pc + 2 ∧ t.run ≠ State.reset.run ∧ t.err ≠ State.reset.err) :=
  ⟨exists_next (by decide), exists_next (by decide), exists_next (by decide), exists_next (by decide)⟩

/-- One instruction that changes the state of each of the other clauses. -/
theorem witness_EachStateHasItsWriters :
    (∃ t, exec (.ldI 0x300#12) State.reset = .next t ∧ t.I ≠ State.reset.I) ∧
    (∃ t, exec (.call 0x300#12) State.reset = .next t ∧ t.stack ≠ State.reset.stack ∧ t.sp ≠ State.reset.sp) ∧
    (∃ t, exec (.drw 0x0#4 0x0#4 0x5#4) (withI 0x050#16) = .next t ∧ FrameBuffer.pixel t.fb 0 0 ≠ FrameBuffer.pixel State.reset.fb 0 0 ∧
      t.displayUpdates ≠ State.reset.displayUpdates) ∧
    (∃ t, exec (.ldDT 0x1#4) (State.reset.setV 0x1#4 1#8) = .next t ∧ t.DT ≠ State.reset.DT) ∧
    (∃ t, exec (.ldST 0x1#4) (State.reset.setV 0x1#4 1#8) = .next t ∧ t.ST ≠ State.reset.ST) ∧
    (∃ t, exec (.stRegs 0x0#4) ((withI 0x300#16).setV 0x0#4 1#8) = .next t ∧ t.mem.read 0x300 ≠ State.reset.mem.read 0x300) ∧
    (∃ t, exec (.rnd 0x0#4 0xFF#8) State.reset = .next t ∧ t.draws ≠ State.reset.draws) :=
  ⟨exists_next (by decide), exists_next (by decide), exists_next (by decide), exists_next (by decide),
    exists_next (by decide), exists_next (by decide), ⟨_, rfl, by decide⟩⟩

theorem witness_NoInstructionReadsSoundTimer :
    (∀ x, Instr.ldVxDT 0x3#4 ≠ .ldST x) ∧ ∃ t, exec (.ldVxDT 0x3#4) State.reset = .next t ∧ t.ST = 0 :=
  ⟨nofun, exists_next (by decide)⟩

/-- No rows, a sprite that ends at 4095, and one byte past it; a collision and none. -/
theorem witness_DrawXorsTheSprite :
    (0x0#4 : Nibble).toNat = 0 ∧
    (withI 4081).I.toNat + (0xF#4 : Nibble).toNat - 1 ≤ 4095 ∧
    (0 < (0xF#4 : Nibble).toNat ∧ (withI 4082).I.toNat + (0xF#4 : Nibble).toNat - 1 > 4095) ∧
    (0 < (0x1#4 : Nibble).toNat ∧ (withI 0xFFFF#16).I.toNat + (0x1#4 : Nibble).toNat - 1 > 4095) ∧
    ({ withI 0x050#16 with fb := FrameBuffer.flip State.reset.fb 0 0 } : State).drwHits 0x0#4 0x0#4 0x5#4 ∧
    ¬ (withI 0x050#16).drwHits 0x0#4 0x0#4 0x5#4 := by
  refine ⟨by decide, by decide, by decide, by decide, ⟨0, 0, by decide, by decide⟩, ?_⟩
  rintro ⟨x, y, h, -⟩
  simp [withI, State.reset, FrameBuffer.pixel, Vector.get_eq_getElem] at h

/-- A font digit drawn from registers that are not VF. -/
theorem witness_DrawingTwiceRestores :
    (withI 0x050#16).run = .running ∧ ∃ t, exec (.drw 0x0#4 0x1#4 0x5#4) (withI 0x050#16) = .next t ∧ t.run = .running ∧
      t.getV 0x0#4 = (withI 0x050#16).getV 0x0#4 ∧ t.getV 0x1#4 = (withI 0x050#16).getV 0x1#4 ∧
      FrameBuffer.pixel t.fb 0 0 = true :=
  ⟨rfl, exists_next (by decide)⟩

theorem witness_KeySkipsReadTheKeypad :
    (State.reset.getV 0x2#4).toNat % 16 = (0x0#4 : KeyIdx).toNat ∧
      ((State.reset.setV 0x2#4 0xFF#8).getV 0x2#4).toNat % 16 = (0xF#4 : KeyIdx).toNat := by decide

theorem witness_KeyWaitBeginsAndCompletes : State.reset.started = true ∧ State.reset.keyDown 0xF#4 = false := by decide

/-- A waiting core and one that does not wait. -/
theorem witness_KeyPressCompletesTheWait :
    (scheduled (.keyPress 0xF#4)).nextUp = .keyPress 0xF#4 ∧ (scheduled (.keyPress 0xF#4)).started = true ∧
      (scheduled (.keyPress 0xF#4)).keyDown 0xF#4 = false ∧ (∀ x, (scheduled (.keyPress 0xF#4)).run ≠ .awaitKey x) ∧
    ({ scheduled (.keyPress 0xF#4) with run := .awaitKey 0x3#4 } : State).run = .awaitKey 0x3#4 ∧
      ({ scheduled (.keyPress 0xF#4) with run := .awaitKey 0x3#4 } : State).nextUp = .keyPress 0xF#4 ∧
      ({ scheduled (.keyPress 0xF#4) with run := .awaitKey 0x3#4 } : State).keyDown 0xF#4 = false := by
  refine ⟨by decide, by decide, by decide, nofun, by decide⟩

/-- A tick and the core's turn while the core waits. -/
theorem witness_KeyWaitLastsUntilKeyPress :
    ∀ e ∈ [Event.tick, Event.core],
      ({ scheduled e with run := .awaitKey 0x3#4 } : State).run = .awaitKey 0x3#4 ∧
      ({ scheduled e with run := .awaitKey 0x3#4 } : State).started = true ∧
      reads (step { scheduled e with run := .awaitKey 0x3#4 }) (fun t => t.run) = some (.awaitKey 0x3#4) ∧
      (∀ k, ({ scheduled e with run := .awaitKey 0x3#4 } : State).nextUp ≠ .keyPress k) ∧
      ({ scheduled e with run := .awaitKey 0x3#4 } : State).nextUp ≠ .reset := by
  intro e he
  simp only [List.mem_cons, List.not_mem_nil, or_false] at he
  rcases he with rfl | rfl <;> exact ⟨by decide, by decide, by decide, nofun, nofun⟩

theorem witness_KeyReleaseChangesOneKey :
    ((scheduled (.keyRelease 0x7#4)).setKey 0x7#4 true).nextUp = .keyRelease 0x7#4 ∧
      ((scheduled (.keyRelease 0x7#4)).setKey 0x7#4 true).started = true ∧
      ((scheduled (.keyRelease 0x7#4)).setKey 0x7#4 true).keyDown 0x7#4 = true := by decide

/-- One step of each clause that changes the run state. -/
theorem witness_RunStateChangesAsListed :
    (∃ t, step (at200 0xF30A#16) = .next t ∧ (at200 0xF30A#16).started = true ∧ t.run ≠ (at200 0xF30A#16).run) ∧
    (∃ t, step { scheduled (.keyPress 0x7#4) with run := .awaitKey 0x3#4 } = .next t ∧ State.reset.started = true ∧
      t.run ≠ .awaitKey 0x3#4) ∧
    (∃ t, step (at200 0x00EE#16) = .next t ∧ (at200 0x00EE#16).started = true ∧ t.run ≠ (at200 0x00EE#16).run) ∧
    (∃ t, step { scheduled .reset with run := .halted } = .next t ∧ (scheduled .reset).started = true ∧ t.run ≠ .halted) :=
  ⟨exists_next (by decide), exists_next (by decide), exists_next (by decide), exists_next (by decide)⟩

theorem witness_TickDecrementsBothTimers : (scheduled .tick).nextUp = .tick ∧ (scheduled .tick).started = true := by decide

theorem witness_TicksCountDownToZero : State.reset.started = true := rfl

/-- The empty image and one of 3584 bytes, the longest that fits. -/
theorem witness_LoadCopiesTheImage :
    ∀ n ∈ [0, 3584], ∃ image : List Byte, image.length = n ∧
      (stopped (.load image)).nextUp = .load image ∧ (stopped (.load image)).started = false ∧
        (stopped (.load image)).run ≠ .halted ∧ (stopped (.load image)).mem.wf = true ∧ image.length ≤ 3584 := by
  intro n h
  have len : (List.replicate n 0x60#8).length = n := List.length_replicate
  refine ⟨List.replicate n 0x60#8, len, rfl, rfl, nofun, rfl, ?_⟩
  rw [len]
  simp only [List.mem_cons, List.not_mem_nil, or_false] at h
  omega

/-- An image of 3585 bytes, the shortest that does not fit, with a start and with the core's turn after it. -/
theorem witness_OversizedImageNeverStarts :
    ∀ e ∈ [Event.start, Event.core], ∃ (image : List Byte) (s : State),
      s.nextUp = .load image ∧ s.started = false ∧ s.run ≠ .halted ∧ image.length = 3585 ∧ 0x200 + image.length > 4096 ∧
        s.popEvent.nextUp = e := by
  intro e _
  have len : ∀ n, (List.replicate n 0x60#8).length = n := fun _ => List.length_replicate
  refine ⟨List.replicate 3585 0x60#8, { stopped e with schedule := [.load (List.replicate 3585 0x60#8), e] }, rfl, rfl, nofun,
    len 3585, ?_, rfl⟩
  rw [len]
  omega

theorem witness_ResetDiscardsAllState :
    (scheduled .reset).nextUp = .reset ∧
      (stopped .start).nextUp = .start ∧ (stopped .start).started = false ∧ (stopped .start).run ≠ .halted := by decide

/-- Addresses just outside the font table. -/
theorem witness_ResetStateHoldsTheListedValues : ¬ within 0x050 80 0x04F ∧ ¬ within 0x050 80 0x0A0 := by
  unfold within; decide

/-- An image of two bytes and one of 3584. -/
theorem witness_FirstFetchIsTheImageStart :
    ∀ n ∈ [0, 3582], ((0x60#8 : Byte) :: 0x0A#8 :: List.replicate n 0#8).length ≤ 3584 := by
  intro n h
  simp only [List.length_cons, List.length_replicate]
  simp only [List.mem_cons, List.not_mem_nil, or_false] at h
  omega

/-- Both bounds of sp; an event that is enabled and one that is not, for each side of the equivalence. -/
theorem witness_StepCompletesExactlyWhenEnabled :
    (withSp 0).sp.toNat ≤ 16 ∧ (withSp 16).sp.toNat ≤ 16 ∧
    eventEnabled (scheduled (.keyPress 0x7#4)) (scheduled (.keyPress 0x7#4)).nextUp ∧
    (∃ t, step (scheduled (.keyPress 0x7#4)) = .next t ∧ t.keyDown 0x7#4 = true) ∧
    ¬ eventEnabled (scheduled .start) (scheduled .start).nextUp ∧ stops (step (scheduled .start)) = true :=
  ⟨by decide, by decide, ⟨rfl, rfl⟩, exists_next (by decide), nofun, by decide⟩

/-- A state at the bounds of the invariant: the largest pc, a full stack of the largest return address, a tick next. -/
def edge : State := { scheduled .tick with pc := 0x10FE#16, sp := 16, stack := Vector.replicate 16 0x1000#16 }

theorem witness_StepKeepsTheInvariant : Inv edge ∧ ∃ t, step edge = .next t ∧ t.sp = 16 :=
  ⟨⟨by decide, by decide, by decide, by decide, by unfold stackOk; decide, by decide, nofun, nofun⟩,
    exists_next (by decide)⟩

/-- The invariant in HALTED. -/
theorem witness_StepKeepsTheInvariant_halted :
    Inv { edge with run := .halted, err := some ⟨.addressOutOfRange, 0x10FE#16, 0x10FE⟩ } ∧
      ∃ t, step { edge with run := .halted, err := some ⟨.addressOutOfRange, 0x10FE#16, 0x10FE⟩ } = .next t ∧ t.sp = 16 :=
  ⟨⟨by decide, by decide, by decide, by decide, by unfold stackOk; decide, by decide,
      fun r h => by cases h; rfl, nofun⟩, exists_next (by decide)⟩

end Sys2Proof.Tests
end

namespace Sys2Proof.Machine

/-- R53 read as numbers: the byte at the lower address counts 256 times. -/
theorem wordOfBytes_toNat (hi lo : Byte) : (wordOfBytes hi lo).toNat = 256 * hi.toNat + lo.toNat := by
  rw [wordOfBytes, BitVec.toNat_append, ← Nat.shiftLeft_add_eq_or_of_lt lo.isLt, Nat.shiftLeft_eq_mul_pow]
  omega

/-- The fetched bytes decode to the instruction of the fetched word, with no byte left over (R71). -/
theorem State.decodeBytes_fetchBytes_of_ok {s : State} {i : Instr} (h : decode s.fetchWord = .ok i) :
    decodeBytes s.fetchBytes = .ok (i, []) := by
  rw [State.decodeBytes_fetchBytes, h]

/-- The fetched bytes are illegal for the reason the fetched word is (R71). -/
theorem State.decodeBytes_fetchBytes_of_error {s : State} {e : Illegal} (h : decode s.fetchWord = .error e) :
    decodeBytes s.fetchBytes = .error e := by
  rw [State.decodeBytes_fetchBytes, h]

/-- Settles O6: the word's value is that of its two bytes, and the fetched bytes decode as that word does. -/
theorem fetchIsBigEndianAtPc : Obligations.FetchIsBigEndianAtPc := by
  unfold Obligations.FetchIsBigEndianAtPc
  intro s
  exact ⟨wordOfBytes_toNat _ _, fun _ => State.decodeBytes_fetchBytes_of_ok,
    fun _ => State.decodeBytes_fetchBytes_of_error⟩

end Sys2Proof.Machine

namespace Sys2Proof.Machine

/-- Widening a 12-bit address keeps its value (R76). -/
@[simp] theorem zextAddr_toNat (nnn : Addr12) : (zextAddr nnn).toNat = nnn.toNat :=
  BitVec.toNat_setWidth_of_le (by decide)

/-- A push with room counts one more occupied entry, with no wrap (R25). -/
theorem State.push_sp_toNat {s : State} (h : s.sp.toNat < 16) (a : Half) : (s.push a).sp.toNat = s.sp.toNat + 1 := by
  rw [State.push_sp, BitVec.toNat_add_of_lt]
  · rfl
  · exact Nat.lt_of_le_of_lt (Nat.succ_le_of_lt h) (by decide)

/-- A skip on equality adds 4 to pc when the two values are equal, else 2 (R104, R106). -/
theorem State.skipIf_beq (s : State) (a b : Byte) :
    s.skipIf (a == b) = { s with pc := s.pc + if a.toNat = b.toNat then 4 else 2 } := by
  by_cases h : a = b
  · simp [State.skipIf, State.jump, h]
  · simp [State.skipIf, State.jump, h, BitVec.toNat_inj]

/-- A skip on inequality adds 2 to pc when the two values are equal, else 4 (R105, R107). -/
theorem State.skipIf_bne (s : State) (a b : Byte) :
    s.skipIf (a != b) = { s with pc := s.pc + if a.toNat = b.toNat then 2 else 4 } := by
  by_cases h : a = b
  · simp [State.skipIf, State.jump, h]
  · simp [State.skipIf, State.jump, h, BitVec.toNat_inj]

/-- Settles O16: JP only jumps, and its target keeps the value of NNN. -/
theorem jumpSetsPc : Obligations.JumpSetsPc := by
  unfold Obligations.JumpSetsPc
  intro nnn s
  exact ⟨s.jump (zextAddr nnn), rfl, rfl, zextAddr_toNat nnn⟩

/-- Settles O17: with room CALL is a push and a jump, so the stack reads as after the push; full, it is the fault. -/
theorem callPushesOrOverflows : Obligations.CallPushesOrOverflows := by
  unfold Obligations.CallPushesOrOverflows
  intro nnn s
  constructor
  · intro room
    exact ⟨(s.push (s.pc + 2)).jump (zextAddr nnn), execCall_room room nnn, rfl, zextAddr_toNat nnn,
      State.push_sp_toNat room (s.pc + 2), fun j => State.stackAt_push s (s.pc + 2) j room⟩
  · intro full
    exact execCall_full full.ge nnn

/-- Settles O18: two of the skips test equality and two test inequality, of a register with a byte or a register. -/
theorem conditionalSkipsMovePc : Obligations.ConditionalSkipsMovePc := by
  unfold Obligations.ConditionalSkipsMovePc
  intro x y nn s
  exact ⟨congrArg Host.Outcome.next (s.skipIf_beq (s.getV x) nn),
    congrArg Host.Outcome.next (s.skipIf_bne (s.getV x) nn),
    congrArg Host.Outcome.next (s.skipIf_beq (s.getV x) (s.getV y)),
    congrArg Host.Outcome.next (s.skipIf_bne (s.getV x) (s.getV y))⟩

end Sys2Proof.Machine

namespace Sys2Proof.Machine

/-- A flag value is the number 1 or 0 (R21). -/
theorem flagOf_decide_toNat (p : Prop) [Decidable p] : (flagOf (decide p)).toNat = if p then 1 else 0 := by
  by_cases h : p <;> simp [flagOf, h]

/-- The carry flag as a number (R126). -/
theorem carryFlag_toNat (a b : Byte) : (carryFlag a b).toNat = if a.toNat + b.toNat > 255 then 1 else 0 :=
  flagOf_decide_toNat _

/-- The not-borrow flag as a number (R127, R129). -/
theorem notBorrow_toNat (a b : Byte) : (notBorrow a b).toNat = if a.toNat ≥ b.toNat then 1 else 0 :=
  flagOf_decide_toNat _

/-- The difference of two bytes is taken modulo 256 (R127). -/
theorem byte_sub_toNat (a b : Byte) : (a - b).toNat = (256 + a.toNat - b.toNat) % 256 := by
  have hb : b.toNat < 256 := b.isLt
  rw [BitVec.toNat_sub, Nat.sub_add_comm hb.le]

/-- An instruction that ends by writing one register writes no other, and of the rest of the state only pc (R20, R73). -/
theorem State.setV_advance_completes (s : State) (x : RegIdx) (b : Byte) :
    ∃ t, Host.Outcome.next (s.setV x b).advance = (.next t : Host.Outcome State Fault Refusal) ∧
      t = { s with V := t.V, pc := s.pc + 2 } ∧ ∀ r, t.getV r = if r = x then b else s.getV r :=
  ⟨(s.setV x b).advance, rfl, rfl, fun r => s.getV_setV x r b⟩

/-- An instruction that ends with the two register writes of R132, their values given as numbers: VF holds the flag, VX the
result unless X = 15, and every other register its old value. -/
theorem State.setResultAndFlag_advance_completes (s : State) (x : RegIdx) {result flag : Byte} {f v : Nat}
    (hf : flag.toNat = f) (hv : result.toNat = v) :
    ∃ t, Host.Outcome.next (s.setResultAndFlag x result flag).advance = (.next t : Host.Outcome State Fault Refusal) ∧
      t = { s with V := t.V, pc := s.pc + 2 } ∧ (t.getV regF).toNat = f ∧ (x ≠ regF → (t.getV x).toNat = v) ∧
      ∀ r, r ≠ x → r ≠ regF → t.getV r = s.getV r := by
  refine ⟨(s.setResultAndFlag x result flag).advance, rfl, rfl, ?_, ?_, ?_⟩
  · simpa [State.getV_setResultAndFlag] using hf
  · intro hx
    simpa [State.getV_setResultAndFlag, hx] using hv
  · intro r hrx hrF
    simp [State.getV_setResultAndFlag, hrx, hrF]

/-- Settles O21: both are one register write, of the byte or of VY as it was. -/
theorem loadAndCopyWriteVx : Obligations.LoadAndCopyWriteVx := by
  unfold Obligations.LoadAndCopyWriteVx
  intro x y nn s
  exact ⟨s.setV_advance_completes x nn, s.setV_advance_completes x (s.getV y)⟩

/-- Settles O22: one register write, of the sum; VF is one of the other registers unless X = 15. -/
theorem addByteWrapsWithoutFlag : Obligations.AddByteWrapsWithoutFlag := by
  unfold Obligations.AddByteWrapsWithoutFlag
  intro x nn s
  obtain ⟨t, hexec, hframe, hV⟩ := s.setV_advance_completes x (s.getV x + nn)
  have hx : t.getV x = s.getV x + nn := by rw [hV, if_pos rfl]
  exact ⟨t, hexec, hframe, by rw [hx, BitVec.toNat_add], fun r hr => by rw [hV, if_neg hr]⟩

/-- Settles O24: the result is the byte sum and the flag its carry. -/
theorem addRegisterSetsCarry : Obligations.AddRegisterSetsCarry := by
  unfold Obligations.AddRegisterSetsCarry
  intro x y s
  exact s.setResultAndFlag_advance_completes x (carryFlag_toNat _ _) (BitVec.toNat_add (s.getV x) (s.getV y))

/-- Settles O25: the result is the byte difference and the flag its not-borrow, with the operands exchanged for SUBN. -/
theorem subtractionsSetNotBorrow : Obligations.SubtractionsSetNotBorrow := by
  unfold Obligations.SubtractionsSetNotBorrow
  intro x y s
  exact ⟨s.setResultAndFlag_advance_completes x (notBorrow_toNat _ _) (byte_sub_toNat (s.getV x) (s.getV y)),
    s.setResultAndFlag_advance_completes x (notBorrow_toNat _ _) (byte_sub_toNat (s.getV y) (s.getV x))⟩

end Sys2Proof.Machine

namespace Sys2Proof.Machine

/-- Inside a block write: byte k of the block stands at its k-th address (R54, R56). -/
theorem Memory.read_writeBytes_inside {m : Memory} (hwf : m.wf = true) {a : Nat} {bs : List Byte}
    (room : a + bs.length ≤ 4096) {k : Nat} (hk : k < bs.length) : (m.writeBytes a bs).read (a + k) = bs[k] := by
  rw [Memory.read_writeBytes hwf a bs room, if_pos ⟨Nat.le_add_right a k, Nat.add_lt_add_left hk a⟩,
    Nat.add_sub_cancel_left, List.getElem?_eq_getElem hk, Option.getD_some]

/-- Outside a block write nothing changes (R54, R56). -/
theorem Memory.read_writeBytes_outside {m : Memory} (hwf : m.wf = true) {a : Nat} {bs : List Byte}
    (room : a + bs.length ≤ 4096) {a' : Nat} (outside : ¬ within a bs.length a') :
    (m.writeBytes a bs).read a' = m.read a' := by
  rw [Memory.read_writeBytes hwf a bs room]
  exact if_neg outside

/-- A store of a block at I that is in range completes: the block stands from I on, and nothing else but pc changes
(R52, R143, R144). -/
theorem State.storeAtI_completes (s : State) (hwf : s.mem.wf = true) (bs : List Byte)
    (room : s.base + bs.length ≤ 4096) :
    ∃ t, Host.Outcome.next (s.ifInRange s.base bs.length (s.setMem (s.mem.writeBytes s.base bs)).advance) =
        (.next t : Host.Outcome State Fault Refusal) ∧
      t = { s with mem := t.mem, pc := s.pc + 2 } ∧ t.mem.font = s.mem.font ∧
      (∀ (k : Nat) (hk : k < bs.length), t.mem.read (s.base + k) = bs[k]) ∧
      ∀ a, ¬ within s.base bs.length a → t.mem.read a = s.mem.read a :=
  ⟨(s.setMem (s.mem.writeBytes s.base bs)).advance, congrArg Host.Outcome.next (State.ifInRange_ok (.inr room) _), rfl,
    s.mem.writeBytes_font s.base bs, fun _ hk => Memory.read_writeBytes_inside hwf room hk,
    fun _ outside => Memory.read_writeBytes_outside hwf room outside⟩

/-- The digits as numbers: each is below 256, so no byte cuts it off (R143). -/
theorem decimalDigits_toNat (a : Byte) :
    (decimalDigits a)[0].toNat = a.toNat / 100 ∧ (decimalDigits a)[1].toNat = a.toNat / 10 % 10 ∧
      (decimalDigits a)[2].toNat = a.toNat % 10 := by
  have ha : a.toNat < 256 := a.isLt
  simp only [decimalDigits, List.getElem_cons_zero, List.getElem_cons_succ, BitVec.toNat_ofNat]
  omega

/-- Settles O32: in range a store of the block of three digits at I, out of range the fault of the range check. -/
theorem storeDecimalDigits : Obligations.StoreDecimalDigits := by
  unfold Obligations.StoreDecimalDigits
  intro x s hwf
  constructor
  · intro inRange
    obtain ⟨t, hexec, hframe, hfont, hblock, houtside⟩ :=
      s.storeAtI_completes hwf (decimalDigits (s.getV x)) (Nat.succ_le_succ inRange)
    obtain ⟨hundreds, tens, ones⟩ := decimalDigits_toNat (s.getV x)
    have digit (k : Nat) (hk : k < 3) :
        (t.mem.read (s.I.toNat + k)).toNat = (decimalDigits (s.getV x))[k].toNat := congrArg BitVec.toNat (hblock k hk)
    exact ⟨t, hexec, hframe, hfont, (digit 0 (by decide)).trans hundreds, (digit 1 (by decide)).trans tens,
      (digit 2 (by decide)).trans ones, houtside⟩
  · intro outOfRange
    exact congrArg Host.Outcome.next (State.ifInRange_error (by decide) (Nat.succ_lt_succ outOfRange) _)

/-- Settles O29: LD I is one write of I, and the widened address keeps the value of NNN. -/
theorem loadISetsAddress : Obligations.LoadISetsAddress := by
  unfold Obligations.LoadISetsAddress
  intro nnn s
  exact ⟨(s.setI (zextAddr nnn)).advance, rfl, rfl, zextAddr_toNat nnn⟩

end Sys2Proof.Machine

namespace Sys2Proof.Machine

/-- The sound output read as a number (R38, R219). -/
theorem State.soundOn_iff (s : State) : s.soundOn = true ↔ s.ST.toNat ≠ 0 :=
  bne_iff_ne.trans BitVec.toNat_ne_iff_ne.symm

/-- Settles O50: one register write, of DT, and one write of each timer; the sound output reads the new ST. -/
theorem timerInstructionsMoveTheTimers : Obligations.TimerInstructionsMoveTheTimers := by
  unfold Obligations.TimerInstructionsMoveTheTimers
  intro x s
  refine ⟨s.setV_advance_completes x s.DT, rfl, ?_⟩
  exact ⟨(s.setST (s.getV x)).advance, rfl, rfl, State.soundOn_iff _⟩

end Sys2Proof.Machine

namespace Sys2Proof.Machine

/-- A timer counts down by one and stays at 0: subtraction of natural numbers (R218). -/
theorem tickDown_toNat (t : Byte) : (tickDown t).toNat = t.toNat - 1 := by
  unfold tickDown
  split
  next positive => exact BitVec.toNat_sub_of_le (BitVec.le_def.2 positive)
  next zero => omega

/-- The tick as a step: enabled once the machine is started, whatever the run state (R40, R218). -/
theorem step_tick {s : State} (hnext : s.nextUp = .tick) (hstarted : s.started = true) :
    step s = .next s.popEvent.ticked := by
  rw [step_eq_runEvent, hnext]
  exact tickEvent_enabled (s := s.popEvent) hstarted

/-- Settles O51: the step is the tick, each timer counts down, and the sound output reads the new ST. -/
theorem tickDecrementsBothTimers : Obligations.TickDecrementsBothTimers := by
  unfold Obligations.TickDecrementsBothTimers
  intro s hnext hstarted
  exact ⟨s.popEvent.ticked, step_tick hnext hstarted, rfl, tickDown_toNat s.DT, tickDown_toNat s.ST,
    (State.soundOn_iff _).trans Nat.pos_iff_ne_zero.symm⟩

end Sys2Proof.Machine

namespace Sys2Proof.Machine

/-- Reset as a step, which the host may take in every state (R223, R240). -/
theorem step_reset {s : State} (hnext : s.nextUp = .reset) : step s = .next s.popEvent.hostReset := by
  rw [step_eq_runEvent, hnext]
  rfl

/-- Load as a step, outside a run and not after a refused load (R39, R242). -/
theorem step_load {s : State} {image : List Byte} (hnext : s.nextUp = .load image) (hstopped : s.started = false)
    (hrun : s.run ≠ .halted) : step s = .next (s.popEvent.loaded image) := by
  rw [step_eq_runEvent, hnext]
  exact loadEvent_enabled (s := s.popEvent) hstopped hrun image

/-- Start as a step, outside a run (R39, R244). -/
theorem step_start {s : State} (hnext : s.nextUp = .start) (hstopped : s.started = false) :
    step s = .next s.popEvent.startedByHost := by
  rw [step_eq_runEvent, hnext]
  exact startEvent_enabled (s := s.popEvent) hstopped

/-- An image that fits is one write of memory, from 0x200 on (R242). -/
theorem State.loaded_fits {image : List Byte} (fits : image.length ≤ 3584) (s : State) :
    s.loaded image = s.setMem (s.mem.writeBytes 0x200 image) := if_pos fits

/-- The memory after reset and the load of an image. -/
def State.bootMem (s : State) (image : List Byte) : Memory := (⟨s.mem.font, []⟩ : Memory).writeBytes 0x200 image

/-- The state after reset, the load of an image that fits, and start: R41's table but for the image in memory, with the
font and the random source kept and the schedule used up (R240, R242, R244; log 10). -/
def State.booted (s : State) (image : List Byte) : State :=
  { State.reset with mem := s.bootMem image, rng := s.rng, draws := s.draws }

/-- Reset, load and start are three steps from every state, each enabled by the one before (R240, R242, R244). -/
theorem run_reset_load_start {image : List Byte} (fits : image.length ≤ 3584) (s : State) :
    Sys2Proof.core.run 3 { s with schedule := [.reset, .load image, .start] } = .next (s.booted image) := by
  have hreset : step { s with schedule := [.reset, .load image, .start] } =
      .next (State.hostReset { s with schedule := [.load image, .start] }) := step_reset rfl
  have hload : step (State.hostReset { s with schedule := [.load image, .start] }) =
      .next { s.booted image with started := false, schedule := [.start] } := by
    rw [step_load rfl rfl RunState.noConfusion, State.loaded_fits fits]
    rfl
  have hstart : step { s.booted image with started := false, schedule := [.start] } = .next (s.booted image) :=
    step_start rfl rfl
  rw [run_succ_of_next hreset, run_succ_of_next hload, run_succ_of_next hstart]
  rfl

/-- After the boot, byte k of the image stands at 0x200 + k (R242). -/
theorem State.read_bootMem {image : List Byte} (fits : image.length ≤ 3584) (s : State) {k : Nat}
    (hk : k < image.length) : (s.bootMem image).read (0x200 + k) = image[k] :=
  Memory.read_writeBytes_inside rfl (Nat.add_le_add_left fits 0x200) hk

/-- A booted machine fetches the first two bytes of its image (R241). -/
theorem State.fetchWord_booted {hi lo : Byte} {rest : List Byte} (fits : (hi :: lo :: rest).length ≤ 3584) (s : State) :
    (s.booted (hi :: lo :: rest)).fetchWord = hi ++ lo := by
  have first : (s.bootMem (hi :: lo :: rest)).read 0x200 = hi := s.read_bootMem fits (Nat.zero_lt_succ _)
  have second : (s.bootMem (hi :: lo :: rest)).read 0x201 = lo :=
    s.read_bootMem fits (Nat.succ_lt_succ (Nat.zero_lt_succ _))
  exact congrArg₂ wordOfBytes first second

/-- Settles O57: the three steps boot the machine, and it fetches the image's first word at 0x200. -/
theorem firstFetchIsTheImageStart : Obligations.FirstFetchIsTheImageStart := by
  unfold Obligations.FirstFetchIsTheImageStart
  intro hi lo rest s fits
  have hpc : fetchable 0x200#16 = true := by decide
  exact ⟨s.booted (hi :: lo :: rest), run_reset_load_start fits s, rfl, rfl, hpc, s.fetchWord_booted fits⟩

end Sys2Proof.Machine

namespace Sys2Proof

/-! ### The fields of a word put together from its fields (30_encoding.md R75, R76) -/

@[simp] theorem opField_op_nnn (op : BitVec 4) (nnn : Addr12) : opField (op ++ nnn) = op :=
  (BitVec.extractLsb'_append_eq_of_le (by decide)).trans BitVec.extractLsb'_eq_self

@[simp] theorem nnnField_op_nnn (op : BitVec 4) (nnn : Addr12) : nnnField (op ++ nnn) = nnn :=
  (BitVec.extractLsb'_append_eq_of_add_le (by decide)).trans BitVec.extractLsb'_eq_self

@[simp] theorem opField_op_x_nn (op : BitVec 4) (x : RegIdx) (nn : Byte) : opField (op ++ x ++ nn) = op :=
  (BitVec.extractLsb'_append_eq_of_le (by decide)).trans
    ((BitVec.extractLsb'_append_eq_of_le (by decide)).trans BitVec.extractLsb'_eq_self)

@[simp] theorem xField_op_x_nn (op : BitVec 4) (x : RegIdx) (nn : Byte) : xField (op ++ x ++ nn) = x :=
  (BitVec.extractLsb'_append_eq_of_le (by decide)).trans
    ((BitVec.extractLsb'_append_eq_of_add_le (by decide)).trans BitVec.extractLsb'_eq_self)

@[simp] theorem nnField_op_x_nn (op : BitVec 4) (x : RegIdx) (nn : Byte) : nnField (op ++ x ++ nn) = nn :=
  (BitVec.extractLsb'_append_eq_of_add_le (by decide)).trans BitVec.extractLsb'_eq_self

@[simp] theorem opField_op_x_y_n (op : BitVec 4) (x y : RegIdx) (n : Nibble) : opField (op ++ x ++ y ++ n) = op :=
  (BitVec.extractLsb'_append_eq_of_le (by decide)).trans
    ((BitVec.extractLsb'_append_eq_of_le (by decide)).trans
      ((BitVec.extractLsb'_append_eq_of_le (by decide)).trans BitVec.extractLsb'_eq_self))

@[simp] theorem xField_op_x_y_n (op : BitVec 4) (x y : RegIdx) (n : Nibble) : xField (op ++ x ++ y ++ n) = x :=
  (BitVec.extractLsb'_append_eq_of_le (by decide)).trans
    ((BitVec.extractLsb'_append_eq_of_le (by decide)).trans
      ((BitVec.extractLsb'_append_eq_of_add_le (by decide)).trans BitVec.extractLsb'_eq_self))

@[simp] theorem yField_op_x_y_n (op : BitVec 4) (x y : RegIdx) (n : Nibble) : yField (op ++ x ++ y ++ n) = y :=
  (BitVec.extractLsb'_append_eq_of_le (by decide)).trans
    ((BitVec.extractLsb'_append_eq_of_add_le (by decide)).trans BitVec.extractLsb'_eq_self)

@[simp] theorem nField_op_x_y_n (op : BitVec 4) (x y : RegIdx) (n : Nibble) : nField (op ++ x ++ y ++ n) = n :=
  (BitVec.extractLsb'_append_eq_of_add_le (by decide)).trans BitVec.extractLsb'_eq_self

@[simp] theorem opField_op_mid_n (op : BitVec 4) (mid : Byte) (n : Nibble) : opField (op ++ mid ++ n) = op :=
  (BitVec.extractLsb'_append_eq_of_le (by decide)).trans
    ((BitVec.extractLsb'_append_eq_of_le (by decide)).trans BitVec.extractLsb'_eq_self)

@[simp] theorem nField_op_mid_n (op : BitVec 4) (mid : Byte) (n : Nibble) : nField (op ++ mid ++ n) = n :=
  (BitVec.extractLsb'_append_eq_of_add_le (by decide)).trans BitVec.extractLsb'_eq_self

/-! ### A word is its fields put together -/

theorem op_nnn_fields (w : Half) : opField w ++ nnnField w = w :=
  (BitVec.extractLsb'_append_extractLsb'_eq_extractLsb' rfl).trans BitVec.extractLsb'_eq_self

theorem op_x_nn_fields (w : Half) : opField w ++ xField w ++ nnField w = w := by
  have op_x : opField w ++ xField w = w.extractLsb' 8 8 := BitVec.extractLsb'_append_extractLsb'_eq_extractLsb' rfl
  rw [op_x]
  exact (BitVec.extractLsb'_append_extractLsb'_eq_extractLsb' rfl).trans BitVec.extractLsb'_eq_self

theorem op_x_y_n_fields (w : Half) : opField w ++ xField w ++ yField w ++ nField w = w := by
  have op_x : opField w ++ xField w = w.extractLsb' 8 8 := BitVec.extractLsb'_append_extractLsb'_eq_extractLsb' rfl
  have op_x_y : w.extractLsb' 8 8 ++ yField w = w.extractLsb' 4 12 :=
    BitVec.extractLsb'_append_extractLsb'_eq_extractLsb' rfl
  rw [op_x, op_x_y]
  exact (BitVec.extractLsb'_append_extractLsb'_eq_extractLsb' rfl).trans BitVec.extractLsb'_eq_self

theorem op_nnn_inj {op : BitVec 4} {nnn nnn' : Addr12} : op ++ nnn = op ++ nnn' ↔ nnn = nnn' :=
  ⟨fun e => by simpa using congrArg nnnField e, fun e => e ▸ rfl⟩

theorem nibble_cases (n : BitVec 4) :
    n = 0x0#4 ∨ n = 0x1#4 ∨ n = 0x2#4 ∨ n = 0x3#4 ∨ n = 0x4#4 ∨ n = 0x5#4 ∨ n = 0x6#4 ∨ n = 0x7#4 ∨
      n = 0x8#4 ∨ n = 0x9#4 ∨ n = 0xA#4 ∨ n = 0xB#4 ∨ n = 0xC#4 ∨ n = 0xD#4 ∨ n = 0xE#4 ∨ n = 0xF#4 := by
  revert n
  decide

/-- Every word by its class nibble, cut into the fields that its class uses (R75). -/
theorem word_cases {P : Half → Prop}
    (class0 : ∀ nnn : Addr12, P (0x0#4 ++ nnn)) (class1 : ∀ nnn : Addr12, P (0x1#4 ++ nnn))
    (class2 : ∀ nnn : Addr12, P (0x2#4 ++ nnn)) (class3 : ∀ (x : RegIdx) (nn : Byte), P (0x3#4 ++ x ++ nn))
    (class4 : ∀ (x : RegIdx) (nn : Byte), P (0x4#4 ++ x ++ nn))
    (class5 : ∀ (x y : RegIdx) (n : Nibble), P (0x5#4 ++ x ++ y ++ n))
    (class6 : ∀ (x : RegIdx) (nn : Byte), P (0x6#4 ++ x ++ nn))
    (class7 : ∀ (x : RegIdx) (nn : Byte), P (0x7#4 ++ x ++ nn))
    (class8 : ∀ (x y : RegIdx) (n : Nibble), P (0x8#4 ++ x ++ y ++ n))
    (class9 : ∀ (x y : RegIdx) (n : Nibble), P (0x9#4 ++ x ++ y ++ n))
    (classA : ∀ nnn : Addr12, P (0xA#4 ++ nnn)) (classB : ∀ nnn : Addr12, P (0xB#4 ++ nnn))
    (classC : ∀ (x : RegIdx) (nn : Byte), P (0xC#4 ++ x ++ nn))
    (classD : ∀ (x y : RegIdx) (n : Nibble), P (0xD#4 ++ x ++ y ++ n))
    (classE : ∀ (x : RegIdx) (nn : Byte), P (0xE#4 ++ x ++ nn))
    (classF : ∀ (x : RegIdx) (nn : Byte), P (0xF#4 ++ x ++ nn)) (w : Half) : P w := by
  have nnn {op : BitVec 4} (h : opField w = op) (all : ∀ nnn : Addr12, P (op ++ nnn)) : P w := by
    rw [← op_nnn_fields w, h]
    exact all _
  have x_nn {op : BitVec 4} (h : opField w = op) (all : ∀ (x : RegIdx) (nn : Byte), P (op ++ x ++ nn)) : P w := by
    rw [← op_x_nn_fields w, h]
    exact all _ _
  have x_y_n {op : BitVec 4} (h : opField w = op) (all : ∀ (x y : RegIdx) (n : Nibble), P (op ++ x ++ y ++ n)) :
      P w := by
    rw [← op_x_y_n_fields w, h]
    exact all _ _ _
  rcases nibble_cases (opField w) with h | h | h | h | h | h | h | h | h | h | h | h | h | h | h | h
  · exact nnn h class0
  · exact nnn h class1
  · exact nnn h class2
  · exact x_nn h class3
  · exact x_nn h class4
  · exact x_y_n h class5
  · exact x_nn h class6
  · exact x_nn h class7
  · exact x_y_n h class8
  · exact x_y_n h class9
  · exact nnn h classA
  · exact nnn h classB
  · exact x_nn h classC
  · exact x_y_n h classD
  · exact x_nn h classE
  · exact x_nn h classF

/-! ### The decoder on each class of words (R78) -/

theorem decodeClass0_op_nnn (nnn : Addr12) :
    decodeClass0 (0x0#4 ++ nnn) = if nnn = 0x0E0#12 then .cls else if nnn = 0x0EE#12 then .ret else .sys nnn := by
  have cls : 0x0#4 ++ nnn = 0x00E0#16 ↔ nnn = 0x0E0#12 := op_nnn_inj (nnn' := 0x0E0#12)
  have ret : 0x0#4 ++ nnn = 0x00EE#16 ↔ nnn = 0x0EE#12 := op_nnn_inj (nnn' := 0x0EE#12)
  simp only [decodeClass0, cls, ret, nnnField_op_nnn]

@[simp] theorem decode_class0 (nnn : Addr12) :
    decode (0x0#4 ++ nnn) =
      .ok (if nnn = 0x0E0#12 then .cls else if nnn = 0x0EE#12 then .ret else .sys nnn) := by
  simp [decode, decodeClass0_op_nnn]

@[simp] theorem decode_class1 (nnn : Addr12) : decode (0x1#4 ++ nnn) = .ok (.jp nnn) := by simp [decode]

@[simp] theorem decode_class2 (nnn : Addr12) : decode (0x2#4 ++ nnn) = .ok (.call nnn) := by simp [decode]

@[simp] theorem decode_class3 (x : RegIdx) (nn : Byte) : decode (0x3#4 ++ x ++ nn) = .ok (.seByte x nn) := by
  simp [decode]

@[simp] theorem decode_class4 (x : RegIdx) (nn : Byte) : decode (0x4#4 ++ x ++ nn) = .ok (.sneByte x nn) := by
  simp [decode]

@[simp] theorem decode_class5 (x y : RegIdx) (n : Nibble) :
    decode (0x5#4 ++ x ++ y ++ n) = if n = 0x0#4 then .ok (.seReg x y) else .error .class5 := by
  simp [decode]

@[simp] theorem decode_class6 (x : RegIdx) (nn : Byte) : decode (0x6#4 ++ x ++ nn) = .ok (.ldByte x nn) := by
  simp [decode]

@[simp] theorem decode_class7 (x : RegIdx) (nn : Byte) : decode (0x7#4 ++ x ++ nn) = .ok (.addByte x nn) := by
  simp [decode]

@[simp] theorem decode_class8 (x y : RegIdx) (n : Nibble) : decode (0x8#4 ++ x ++ y ++ n) = decodeClass8 x y n := by
  simp [decode]

@[simp] theorem decode_class9 (x y : RegIdx) (n : Nibble) :
    decode (0x9#4 ++ x ++ y ++ n) = if n = 0x0#4 then .ok (.sneReg x y) else .error .class9 := by
  simp [decode]

@[simp] theorem decode_classA (nnn : Addr12) : decode (0xA#4 ++ nnn) = .ok (.ldI nnn) := by simp [decode]

@[simp] theorem decode_classB (nnn : Addr12) : decode (0xB#4 ++ nnn) = .ok (.jpV0 nnn) := by simp [decode]

@[simp] theorem decode_classC (x : RegIdx) (nn : Byte) : decode (0xC#4 ++ x ++ nn) = .ok (.rnd x nn) := by
  simp [decode]

@[simp] theorem decode_classD (x y : RegIdx) (n : Nibble) : decode (0xD#4 ++ x ++ y ++ n) = .ok (.drw x y n) := by
  simp [decode]

@[simp] theorem decode_classE (x : RegIdx) (nn : Byte) : decode (0xE#4 ++ x ++ nn) = decodeClassE x nn := by
  simp [decode]

@[simp] theorem decode_classF (x : RegIdx) (nn : Byte) : decode (0xF#4 ++ x ++ nn) = decodeClassF x nn := by
  simp [decode]

/-! ### Encoding and decoding are inverse -/

/-- Settles O1: the fields of an encoded word are the operands, so each class of the decoder gives the instruction back. -/
theorem decodeOfEncodeIsTheInstruction : Obligations.DecodeOfEncodeIsTheInstruction := by
  unfold Obligations.DecodeOfEncodeIsTheInstruction
  intro i wf
  cases i with
  | cls | ret => rfl
  | sys nnn =>
    simp only [WellFormed, Instr.wellFormed, Bool.and_eq_true, bne_iff_ne] at wf
    obtain ⟨notCls, notRet⟩ := wf
    simp [encode, notCls, notRet]
  | jp nnn | call nnn | ldI nnn | jpV0 nnn => simp [encode]
  | seByte x nn | sneByte x nn | ldByte x nn | addByte x nn | rnd x nn => simp [encode]
  | seReg x y | sneReg x y | drw x y n => simp [encode]
  | ldReg x y | orReg x y | andReg x y | xorReg x y | addReg x y | sub x y | shr x y | subn x y | shl x y =>
    exact decode_class8 x y _
  | skp x | sknp x => exact decode_classE x _
  | ldVxDT x | ldVxK x | ldDT x | ldST x | addI x | ldF x | ldB x | stRegs x | ldRegs x => exact decode_classF x _

/-- `i` is well formed and `w` is its word (R77, R78). -/
def MeaningOf (w : Half) (i : Instr) : Prop := WellFormed i ∧ encode i = w

theorem decodeClass0_meaning (nnn : Addr12) :
    MeaningOf (0x0#4 ++ nnn) (if nnn = 0x0E0#12 then .cls else if nnn = 0x0EE#12 then .ret else .sys nnn) := by
  split
  next cls => exact ⟨rfl, cls ▸ rfl⟩
  split
  next ret => exact ⟨rfl, ret ▸ rfl⟩
  next notCls notRet => exact ⟨by simp [WellFormed, Instr.wellFormed, notCls, notRet], rfl⟩

theorem decodeClass8_meaning {x y : RegIdx} {n : Nibble} {i : Instr} (h : decodeClass8 x y n = .ok i) :
    MeaningOf (0x8#4 ++ x ++ y ++ n) i := by
  unfold decodeClass8 at h
  split at h <;> cases h <;> exact ⟨rfl, rfl⟩

theorem decodeClassE_meaning {x : RegIdx} {nn : Byte} {i : Instr} (h : decodeClassE x nn = .ok i) :
    MeaningOf (0xE#4 ++ x ++ nn) i := by
  unfold decodeClassE at h
  split at h <;> cases h <;> exact ⟨rfl, rfl⟩

theorem decodeClassF_meaning {x : RegIdx} {nn : Byte} {i : Instr} (h : decodeClassF x nn = .ok i) :
    MeaningOf (0xF#4 ++ x ++ nn) i := by
  unfold decodeClassF at h
  split at h <;> cases h <;> exact ⟨rfl, rfl⟩

/-- Settles O2: each class of words is rebuilt from the fields that its instructions keep and the bits they fix. -/
theorem encodeOfDecodeIsTheWord : Obligations.EncodeOfDecodeIsTheWord := by
  unfold Obligations.EncodeOfDecodeIsTheWord
  intro w i h
  cases w using word_cases with
  | class0 nnn =>
    obtain rfl := Except.ok.inj ((decode_class0 nnn).symm.trans h)
    exact decodeClass0_meaning nnn
  | class1 nnn => exact Except.ok.inj ((decode_class1 nnn).symm.trans h) ▸ ⟨rfl, rfl⟩
  | class2 nnn => exact Except.ok.inj ((decode_class2 nnn).symm.trans h) ▸ ⟨rfl, rfl⟩
  | class3 x nn => exact Except.ok.inj ((decode_class3 x nn).symm.trans h) ▸ ⟨rfl, rfl⟩
  | class4 x nn => exact Except.ok.inj ((decode_class4 x nn).symm.trans h) ▸ ⟨rfl, rfl⟩
  | class5 x y n | class9 x y n =>
    simp only [decode_class5, decode_class9] at h
    split at h
    next zero => cases h; exact ⟨rfl, zero ▸ rfl⟩
    next => cases h
  | class6 x nn => exact Except.ok.inj ((decode_class6 x nn).symm.trans h) ▸ ⟨rfl, rfl⟩
  | class7 x nn => exact Except.ok.inj ((decode_class7 x nn).symm.trans h) ▸ ⟨rfl, rfl⟩
  | class8 x y n => exact decodeClass8_meaning ((decode_class8 x y n).symm.trans h)
  | classA nnn => exact Except.ok.inj ((decode_classA nnn).symm.trans h) ▸ ⟨rfl, rfl⟩
  | classB nnn => exact Except.ok.inj ((decode_classB nnn).symm.trans h) ▸ ⟨rfl, rfl⟩
  | classC x nn => exact Except.ok.inj ((decode_classC x nn).symm.trans h) ▸ ⟨rfl, rfl⟩
  | classD x y n => exact Except.ok.inj ((decode_classD x y n).symm.trans h) ▸ ⟨rfl, rfl⟩
  | classE x nn => exact decodeClassE_meaning ((decode_classE x nn).symm.trans h)
  | classF x nn => exact decodeClassF_meaning ((decode_classF x nn).symm.trans h)

/-! ### The illegal words (R79) -/

theorem opField_toNat (w : Half) : (opField w).toNat = w.toNat / 4096 := by
  have := w.isLt
  simp only [opField, BitVec.extractLsb'_toNat, Nat.shiftRight_eq_div_pow]
  omega

theorem nField_toNat (w : Half) : (nField w).toNat = w.toNat % 16 := by
  simp [nField]

theorem nnField_toNat (w : Half) : (nnField w).toNat = w.toNat % 256 := by
  simp [nnField]

/-- Classes 5 and 9: a word with a low nibble other than 0 is illegal. -/
theorem nibbleZero_error_iff (i : Instr) (e : Illegal) (n : Nibble) :
    (∃ e', (if n = 0x0#4 then .ok i else .error e : Except Illegal Instr) = .error e') ↔ n.toNat ≠ 0 := by
  by_cases zero : n = 0x0#4
  · simp [zero]
  · simpa [zero] using fun h : n.toNat = 0 => zero (BitVec.eq_of_toNat_eq h)

theorem decodeClass8_error_iff (x y : RegIdx) (n : Nibble) :
    (∃ e, decodeClass8 x y n = .error e) ↔ n.toNat ∈ [8, 9, 10, 11, 12, 13, 15] := by
  rcases nibble_cases n with h | h | h | h | h | h | h | h | h | h | h | h | h | h | h | h <;>
    simp [h, decodeClass8]

theorem decodeClassE_error_iff (x : RegIdx) (nn : Byte) :
    (∃ e, decodeClassE x nn = .error e) ↔ nn.toNat ≠ 0x9E ∧ nn.toNat ≠ 0xA1 := by
  unfold decodeClassE
  split
  · simp
  · simp
  next not9E notA1 =>
    exact iff_of_true ⟨_, rfl⟩ ⟨fun e => not9E (BitVec.eq_of_toNat_eq e), fun e => notA1 (BitVec.eq_of_toNat_eq e)⟩

theorem decodeClassF_error_iff (x : RegIdx) (nn : Byte) :
    (∃ e, decodeClassF x nn = .error e) ↔
      nn.toNat ∉ [0x07, 0x0A, 0x15, 0x18, 0x1E, 0x29, 0x33, 0x55, 0x65] := by
  have listed : nn.toNat ∈ [0x07, 0x0A, 0x15, 0x18, 0x1E, 0x29, 0x33, 0x55, 0x65] ↔
      nn ∈ [0x07#8, 0x0A#8, 0x15#8, 0x18#8, 0x1E#8, 0x29#8, 0x33#8, 0x55#8, 0x65#8] :=
    List.mem_map_of_injective (l := [0x07#8, 0x0A#8, 0x15#8, 0x18#8, 0x1E#8, 0x29#8, 0x33#8, 0x55#8, 0x65#8])
      (f := BitVec.toNat) fun _ _ => BitVec.eq_of_toNat_eq
  rw [listed]
  unfold decodeClassF
  split <;> simp_all

/-- Settles O4: five classes hold illegal words, told by the low nibble or the low byte; the other classes hold none. -/
theorem illegalWordsAreThoseListed : Obligations.IllegalWordsAreThoseListed := by
  unfold Obligations.IllegalWordsAreThoseListed
  intro w
  simp only [← opField_toNat, ← nField_toNat, ← nnField_toNat]
  cases w using word_cases with
  | class5 x y n | class9 x y n => simp [nibbleZero_error_iff]
  | class8 x y n => simp [decodeClass8_error_iff]
  | classE x nn => simp [decodeClassE_error_iff]
  | classF x nn => simp [decodeClassF_error_iff]
  | class0 nnn | class1 nnn | class2 nnn | classA nnn | classB nnn => simp
  | class3 x nn | class4 x nn | class6 x nn | class7 x nn | classC x nn => simp
  | classD x y n => simp

/-! ### The rows of the opcode table, by the bits they fix (R78) -/

/-- A row that fixes the whole word; both such words are of class 0. -/
def wordRow (nnn : Addr12) : OpcodeRow := ⟨0xFFFF#16, 0x0#4 ++ nnn⟩

/-- A row that fixes the class nibble. -/
def classRow (op : BitVec 4) : OpcodeRow := ⟨0xF000#16, op ++ 0#12⟩

/-- A row that fixes the class nibble and the low nibble. -/
def nibbleRow (op : BitVec 4) (n : Nibble) : OpcodeRow := ⟨0xF00F#16, op ++ 0#8 ++ n⟩

/-- A row that fixes the class nibble and the low byte. -/
def byteRow (op : BitVec 4) (nn : Byte) : OpcodeRow := ⟨0xF0FF#16, op ++ 0#4 ++ nn⟩

theorem opcodeTable_eq_rows : opcodeTable =
    [wordRow 0x0E0#12, wordRow 0x0EE#12, classRow 0x0#4, classRow 0x1#4, classRow 0x2#4, classRow 0x3#4, classRow 0x4#4,
      nibbleRow 0x5#4 0x0#4, classRow 0x6#4, classRow 0x7#4, nibbleRow 0x8#4 0x0#4, nibbleRow 0x8#4 0x1#4,
      nibbleRow 0x8#4 0x2#4, nibbleRow 0x8#4 0x3#4, nibbleRow 0x8#4 0x4#4, nibbleRow 0x8#4 0x5#4, nibbleRow 0x8#4 0x6#4,
      nibbleRow 0x8#4 0x7#4, nibbleRow 0x8#4 0xE#4, nibbleRow 0x9#4 0x0#4, classRow 0xA#4, classRow 0xB#4, classRow 0xC#4,
      classRow 0xD#4, byteRow 0xE#4 0x9E#8, byteRow 0xE#4 0xA1#8, byteRow 0xF#4 0x07#8, byteRow 0xF#4 0x0A#8,
      byteRow 0xF#4 0x15#8, byteRow 0xF#4 0x18#8, byteRow 0xF#4 0x1E#8, byteRow 0xF#4 0x29#8, byteRow 0xF#4 0x33#8,
      byteRow 0xF#4 0x55#8, byteRow 0xF#4 0x65#8] := rfl

theorem wordRow_selects (nnn : Addr12) (w : Half) :
    (wordRow nnn).selects w = (opField w == 0x0#4 && nnnField w == nnn) := by
  have masked : w &&& 0xFFFF#16 = opField w ++ nnnField w := BitVec.and_allOnes.trans (op_nnn_fields w).symm
  rw [OpcodeRow.selects, wordRow, masked, Bool.eq_iff_iff, Bool.and_eq_true, beq_iff_eq, beq_iff_eq, beq_iff_eq]
  exact ⟨fun e => ⟨by simpa using congrArg opField e, by simpa using congrArg nnnField e⟩,
    fun ⟨sameOp, sameNnn⟩ => sameOp ▸ sameNnn ▸ rfl⟩

theorem classRow_selects (op : BitVec 4) (w : Half) : (classRow op).selects w = (opField w == op) := by
  have masked : w &&& 0xF000#16 = opField w ++ 0#12 := by
    conv_lhs => rw [← op_nnn_fields w]
    exact Laws.EncodesItsRow.mask_FA _ _
  rw [OpcodeRow.selects, classRow, masked, Bool.eq_iff_iff, beq_iff_eq, beq_iff_eq]
  exact ⟨fun e => by simpa using congrArg opField e, fun sameOp => sameOp ▸ rfl⟩

theorem nibbleRow_selects (op : BitVec 4) (n : Nibble) (w : Half) :
    (nibbleRow op n).selects w = (opField w == op && nField w == n) := by
  have masked : w &&& 0xF00F#16 = opField w ++ 0#8 ++ nField w := by
    conv_lhs => rw [← op_x_y_n_fields w]
    exact Laws.EncodesItsRow.mask_FR _ _ _ _
  rw [OpcodeRow.selects, nibbleRow, masked, Bool.eq_iff_iff, Bool.and_eq_true, beq_iff_eq, beq_iff_eq, beq_iff_eq]
  exact ⟨fun e => ⟨by simpa using congrArg opField e, by simpa using congrArg nField e⟩,
    fun ⟨sameOp, sameN⟩ => sameOp ▸ sameN ▸ rfl⟩

theorem byteRow_selects (op : BitVec 4) (nn : Byte) (w : Half) :
    (byteRow op nn).selects w = (opField w == op && nnField w == nn) := by
  have masked : w &&& 0xF0FF#16 = opField w ++ 0#4 ++ nnField w := by
    conv_lhs => rw [← op_x_nn_fields w]
    exact Laws.EncodesItsRow.mask_FX _ _ _
  rw [OpcodeRow.selects, byteRow, masked, Bool.eq_iff_iff, Bool.and_eq_true, beq_iff_eq, beq_iff_eq, beq_iff_eq]
  exact ⟨fun e => ⟨by simpa using congrArg opField e, by simpa using congrArg nnField e⟩,
    fun ⟨sameOp, sameNn⟩ => sameOp ▸ sameNn ▸ rfl⟩

/-- First match wins, row by row (R77). -/
theorem find?_selects_cons (r : OpcodeRow) (rows : List OpcodeRow) (w : Half) :
    (r :: rows).find? (fun r => r.selects w) = if r.selects w then some r else rows.find? (fun r => r.selects w) := by
  rw [List.find?_cons]
  cases r.selects w <;> rfl

/-- Settles O3: within a class of words only the rows of that class can match, and they match on the bits that the decoder
looks at. -/
theorem decodeIsFirstMatchingRowOfTable : Obligations.DecodeIsFirstMatchingRowOfTable := by
  unfold Obligations.DecodeIsFirstMatchingRowOfTable
  intro w
  simp only [opcodeTable_eq_rows, find?_selects_cons, List.find?_nil, wordRow_selects, classRow_selects,
    nibbleRow_selects, byteRow_selects]
  cases w using word_cases with
  | class0 nnn =>
    by_cases cls : nnn = 0x0E0#12
    · subst cls; rfl
    by_cases ret : nnn = 0x0EE#12
    · subst ret; rfl
    simp [cls, ret, rowOf, classRow]
  | class1 nnn | class2 nnn | classA nnn | classB nnn => simp [rowOf, classRow]
  | class3 x nn | class4 x nn | class6 x nn | class7 x nn | classC x nn => simp [rowOf, classRow]
  | classD x y n => simp [rowOf, classRow]
  | class5 x y n | class9 x y n => by_cases zero : n = 0x0#4 <;> simp [zero, rowOf, nibbleRow]
  | class8 x y n =>
    rcases nibble_cases n with h | h | h | h | h | h | h | h | h | h | h | h | h | h | h | h <;>
      simp [h, decodeClass8, rowOf, nibbleRow]
  | classE x nn =>
    rw [decode_classE]
    generalize h : decodeClassE x nn = decoded
    unfold decodeClassE at h
    split at h <;> subst h
    case h_3 => simp_all
    all_goals simp [rowOf, byteRow]
  | classF x nn =>
    rw [decode_classF]
    generalize h : decodeClassF x nn = decoded
    unfold decodeClassF at h
    split at h <;> subst h
    case h_10 => simp_all
    all_goals simp [rowOf, byteRow]

/-- Settles O5: ten fixed words, each decoded by evaluation. -/
theorem sampleWordsDecodeAsListed : Obligations.SampleWordsDecodeAsListed := by
  unfold Obligations.SampleWordsDecodeAsListed
  exact ⟨rfl, rfl, rfl, rfl, rfl, rfl, rfl, rfl, rfl, rfl⟩

end Sys2Proof

namespace Sys2Proof.Machine

/-! ### Rules of the shared operations (R24, R108, R145) -/

/-- With sp above 16 there is no entry to pop (log 7). -/
theorem execRet_above {s : State} (h : 16 < s.sp.toNat) : execRet s = .fault .stackPointerOutOfRange := by
  have occupied : ¬ s.sp = 0 := fun e => by rw [e] at h; exact absurd h (by decide)
  rw [execRet, if_neg occupied, if_pos h]

/-- V0 to VX loaded from a block of X + 1 bytes: the registers above X are kept (R145). -/
theorem State.getV_setRegsFrom_zero_above (s : State) {x r : RegIdx} {bs : List Byte} (len : bs.length = x.toNat + 1)
    (above : ¬ r.toNat ≤ x.toNat) : (s.setRegsFrom 0 bs).getV r = s.getV r := by
  have := x.isLt
  rw [State.getV_setRegsFrom s 0 bs (by omega), if_neg (by omega)]

theorem zextAddr_le (nnn : Addr12) : (zextAddr nnn).toNat ≤ 0x10FE := by
  have := nnn.isLt
  rw [zextAddr_toNat]
  omega

theorem zextByte_toNat (b : Byte) : (zextByte b).toNat = b.toNat := BitVec.toNat_setWidth_of_le (by decide)

/-- The offset jump's target, which does not wrap (R108). -/
theorem zextAddr_add_zextByte_toNat (nnn : Addr12) (b : Byte) :
    (zextAddr nnn + zextByte b).toNat = nnn.toNat + b.toNat := by
  have := nnn.isLt
  have := b.isLt
  rw [BitVec.toNat_add_of_lt] <;> rw [zextAddr_toNat, zextByte_toNat]
  omega

/-! ### What an instruction can do (R73, R200 to R204) -/

/-- Instruction `i` raises error `e` with information `n` in state `s` (R200 to R204). -/
inductive Raises (s : State) : Instr → ErrKind → Nat → Prop
  | sys (nnn : Addr12) : Raises s (.sys nnn) .unknownOpcode (zextAddr nnn).toNat
  | overflow (nnn : Addr12) (full : 16 ≤ s.sp.toNat) : Raises s (.call nnn) .stackOverflow 0
  | underflow (empty : s.sp.toNat = 0) : Raises s .ret .stackUnderflow 0
  | outOfRange {i : Instr} (reaches : reachesMemory i = true) : Raises s i .addressOutOfRange (max s.base 4096)

/-- Instruction `i` takes state `s` to `t`: a fault, or what it writes when it completes, by the pieces of state that it
writes. -/
inductive Effect (s : State) : Instr → State → Prop
  | fault {i : Instr} {e : ErrKind} {n : Nat} (raises : Raises s i e n) : Effect s i (s.raise e n)
  | registers {i : Instr} (V : Vector Byte 16)
      (kept : ∀ r, writesReg i r = false → State.getV { s with V := V } r = s.getV r) :
      Effect s i (State.advance { s with V := V })
  | random (x : RegIdx) (nn : Byte) : Effect s (.rnd x nn) (s.afterDraw.setV x (s.randomByte &&& nn)).advance
  | clear : Effect s .cls (s.showFb FrameBuffer.clear).advance
  | draw (x y : RegIdx) (n : Nibble) : Effect s (.drw x y n)
      ((s.showFb (s.rasterSprite x y n).fb).setV regF (flagOf (s.rasterSprite x y n).hit)).advance
  | address {i : Instr} (a : Half) (writer : (∃ nnn, i = .ldI nnn) ∨ (∃ x, i = .addI x) ∨ ∃ x, i = .ldF x) :
      Effect s i (s.setI a).advance
  | store {i : Instr} (bs : List Byte) (writer : (∃ x, i = .ldB x) ∨ ∃ x, i = .stRegs x) :
      Effect s i (s.setMem (s.mem.writeBytes s.base bs)).advance
  | delayTimer (x : RegIdx) : Effect s (.ldDT x) (s.setDT (s.getV x)).advance
  | soundTimer (x : RegIdx) : Effect s (.ldST x) (s.setST (s.getV x)).advance
  | wait (x : RegIdx) : Effect s (.ldVxK x) (s.setRun (.awaitKey x)).advance
  | jump {i : Instr} (a : Half) (transfers : transfersControl i = true) (bound : a.toNat ≤ 0x10FE) :
      Effect s i (s.jump a)
  | skip {i : Instr} (cond : Bool) (transfers : transfersControl i = true) : Effect s i (s.skipIf cond)
  | call (nnn : Addr12) (room : s.sp.toNat < 16) :
      Effect s (.call nnn) ((s.push (s.pc + 2)).jump (zextAddr nnn))
  | ret (occupied : 0 < s.sp.toNat) (bound : s.sp.toNat ≤ 16) :
      Effect s .ret (s.dropTop.jump (s.stackAt (s.sp.toNat - 1)))

section
variable {s t : State} {i : Instr}

theorem Effect.of_setV {x : RegIdx} {b : Byte}
    (h : Host.Outcome.next (s.setV x b).advance = (.next t : Host.Outcome State Fault Refusal))
    (dest : writesReg i x = true) : Effect s i t := by
  obtain rfl := Host.Outcome.next.inj h
  refine .registers (s.setV x b).V fun r other => ?_
  have ne : r ≠ x := fun e => by rw [e, dest] at other; exact Bool.noConfusion other
  exact (s.getV_setV x r b).trans (if_neg ne)

theorem Effect.of_setResultAndFlag {x : RegIdx} {result flag : Byte}
    (h : Host.Outcome.next (s.setResultAndFlag x result flag).advance = (.next t : Host.Outcome State Fault Refusal))
    (dest : writesReg i x = true) (destF : writesReg i regF = true) : Effect s i t := by
  obtain rfl := Host.Outcome.next.inj h
  refine .registers (s.setResultAndFlag x result flag).V fun r other => ?_
  have ne : r ≠ x := fun e => by rw [e, dest] at other; exact Bool.noConfusion other
  have neF : r ≠ regF := fun e => by rw [e, destF] at other; exact Bool.noConfusion other
  exact (s.getV_setResultAndFlag x r result flag).trans ((if_neg neF).trans (if_neg ne))

theorem Effect.of_ifInRange {count : Nat} {done : State}
    (h : Host.Outcome.next (s.ifInRange s.base count done) = (.next t : Host.Outcome State Fault Refusal))
    (reaches : reachesMemory i = true) (completes : Effect s i done) : Effect s i t := by
  obtain rfl := Host.Outcome.next.inj h
  rcases s.ifInRange_cases s.base count done with ⟨-, e⟩ | ⟨-, -, e⟩
  · exact e.symm ▸ completes
  · exact e.symm ▸ .fault (.outOfRange reaches)

theorem Effect.of_ldRegs {x : RegIdx} : Effect s (.ldRegs x)
    (s.setRegsFrom 0 (s.mem.readBytes s.base (x.toNat + 1))).advance := by
  rw [State.setRegsFrom_eq]
  refine .registers _ fun r other => ?_
  have := s.getV_setRegsFrom_zero_above (s.mem.readBytes_length s.base (x.toNat + 1)) (of_decide_eq_false other)
  rwa [State.setRegsFrom_eq] at this

/-- Everything an instruction that answers a next state can do. -/
theorem exec_effect (h : exec i s = .next t) : Effect s i t := by
  cases i with
  | cls => exact Host.Outcome.next.inj h ▸ .clear
  | ret =>
    rcases Nat.eq_zero_or_pos s.sp.toNat with empty | occupied
    · exact Host.Outcome.next.inj ((execRet_empty empty).symm.trans h) ▸ .fault (.underflow empty)
    rcases Nat.lt_or_ge 16 s.sp.toNat with above | bound
    · nomatch (execRet_above above).symm.trans h
    · exact Host.Outcome.next.inj ((execRet_top occupied bound).symm.trans h) ▸ .ret occupied bound
  | sys nnn => exact Host.Outcome.next.inj h ▸ .fault (.sys nnn)
  | jp nnn => exact Host.Outcome.next.inj h ▸ .jump (zextAddr nnn) rfl (zextAddr_le nnn)
  | call nnn =>
    rcases Nat.lt_or_ge s.sp.toNat 16 with room | full
    · exact Host.Outcome.next.inj ((execCall_room room nnn).symm.trans h) ▸ .call nnn room
    · exact Host.Outcome.next.inj ((execCall_full full nnn).symm.trans h) ▸ .fault (.overflow nnn full)
  | seByte x nn => exact Host.Outcome.next.inj h ▸ .skip _ rfl
  | sneByte x nn => exact Host.Outcome.next.inj h ▸ .skip _ rfl
  | seReg x y => exact Host.Outcome.next.inj h ▸ .skip _ rfl
  | sneReg x y => exact Host.Outcome.next.inj h ▸ .skip _ rfl
  | skp x => exact Host.Outcome.next.inj h ▸ .skip _ rfl
  | sknp x => exact Host.Outcome.next.inj h ▸ .skip _ rfl
  | jpV0 nnn =>
    refine Host.Outcome.next.inj h ▸ .jump (zextAddr nnn + zextByte (s.getV 0#4)) rfl ?_
    have := nnn.isLt
    have := (s.getV 0#4).isLt
    rw [zextAddr_add_zextByte_toNat]
    omega
  | ldByte x nn | addByte x nn | ldVxDT x => exact .of_setV h (beq_self_eq_true x)
  | ldReg x y | orReg x y | andReg x y | xorReg x y => exact .of_setV h (beq_self_eq_true x)
  | addReg x y | sub x y | shr x y | subn x y | shl x y =>
    exact .of_setResultAndFlag h (by simp [writesReg]) (by simp [writesReg])
  | rnd x nn => exact Host.Outcome.next.inj h ▸ .random x nn
  | drw x y n => exact .of_ifInRange h rfl (.draw x y n)
  | ldI nnn => exact Host.Outcome.next.inj h ▸ .address _ (.inl ⟨nnn, rfl⟩)
  | addI x => exact Host.Outcome.next.inj h ▸ .address _ (.inr (.inl ⟨x, rfl⟩))
  | ldF x => exact Host.Outcome.next.inj h ▸ .address _ (.inr (.inr ⟨x, rfl⟩))
  | ldB x => exact .of_ifInRange h rfl (.store _ (.inl ⟨x, rfl⟩))
  | stRegs x => exact .of_ifInRange h rfl (.store _ (.inr ⟨x, rfl⟩))
  | ldRegs x => exact .of_ifInRange h rfl .of_ldRegs
  | ldVxK x => exact Host.Outcome.next.inj h ▸ .wait x
  | ldDT x => exact Host.Outcome.next.inj h ▸ .delayTimer x
  | ldST x => exact Host.Outcome.next.inj h ▸ .soundTimer x


/-! ### What each instruction writes, piece by piece (10_state.md R20 to R31) -/

theorem Effect.register_kept (h : Effect s i t) {r : RegIdx} (other : writesReg i r = false) : t.getV r = s.getV r := by
  cases h with
  | registers V kept => exact kept r other
  | random x nn =>
    have ne : r ≠ x := ne_of_beq_false other
    simp [ne]
  | draw x y n =>
    have ne : r ≠ regF := ne_of_beq_false other
    simp [ne]
  | _ => rfl

theorem Effect.pc_writer (h : Effect s i t) (ne : t.pc ≠ s.pc + 2) :
    transfersControl i = true ∨ (t.pc = s.pc ∧ t.run = .halted) := by
  cases h with
  | fault _ => exact .inr ⟨rfl, rfl⟩
  | jump _ transfers _ => exact .inl transfers
  | skip _ transfers => exact .inl transfers
  | call nnn _ | ret _ _ => exact .inl rfl
  | _ => exact absurd rfl ne

theorem Effect.err_kept_of_pc (h : Effect s i t) (ne : t.pc ≠ s.pc) : t.err = s.err := by
  cases h with
  | fault _ => exact absurd rfl ne
  | _ => rfl

theorem Effect.run_writer (h : Effect s i t) (ne : t.run ≠ s.run) :
    (∃ x, i = .ldVxK x ∧ t.run = .awaitKey x) ∨ (t.run = .halted ∧ t.err.isSome) := by
  cases h with
  | fault _ => exact .inr ⟨rfl, rfl⟩
  | wait x => exact .inl ⟨x, rfl, rfl⟩
  | _ => exact absurd rfl ne

theorem Raises.raiser {e : ErrKind} {n : Nat} (h : Raises s i e n) :
    (∃ a, i = .sys a) ∨ (∃ a, i = .call a) ∨ i = .ret ∨ reachesMemory i = true := by
  cases h with
  | sys nnn => exact .inl ⟨nnn, rfl⟩
  | overflow nnn _ => exact .inr (.inl ⟨nnn, rfl⟩)
  | underflow _ => exact .inr (.inr (.inl rfl))
  | outOfRange reaches => exact .inr (.inr (.inr reaches))

theorem Effect.err_writer (h : Effect s i t) (ne : t.err ≠ s.err) : t.run = .halted ∧
    ((∃ a, i = .sys a) ∨ (∃ a, i = .call a) ∨ i = .ret ∨ reachesMemory i = true) := by
  cases h with
  | fault raises => exact ⟨rfl, raises.raiser⟩
  | _ => exact absurd rfl ne

theorem Effect.I_writer (h : Effect s i t) (ne : t.I ≠ s.I) :
    (∃ a, i = .ldI a) ∨ (∃ x, i = .addI x) ∨ ∃ x, i = .ldF x := by
  cases h with
  | address _ writer => exact writer
  | _ => exact absurd rfl ne

theorem Effect.stack_writer (h : Effect s i t) (ne : t.stack ≠ s.stack) : ∃ a, i = .call a := by
  cases h with
  | call nnn _ => exact ⟨nnn, rfl⟩
  | _ => exact absurd rfl ne

theorem Effect.sp_writer (h : Effect s i t) (ne : t.sp ≠ s.sp) : (∃ a, i = .call a) ∨ i = .ret := by
  cases h with
  | call nnn _ => exact .inl ⟨nnn, rfl⟩
  | ret _ _ => exact .inr rfl
  | _ => exact absurd rfl ne

theorem Effect.fb_writer (h : Effect s i t) (ne : t.fb ≠ s.fb) : i = .cls ∨ ∃ x y n, i = .drw x y n := by
  cases h with
  | clear => exact .inl rfl
  | draw x y n => exact .inr ⟨x, y, n, rfl⟩
  | _ => exact absurd rfl ne

theorem Effect.displayUpdates_writer (h : Effect s i t) (ne : t.displayUpdates ≠ s.displayUpdates) :
    i = .cls ∨ ∃ x y n, i = .drw x y n := by
  cases h with
  | clear => exact .inl rfl
  | draw x y n => exact .inr ⟨x, y, n, rfl⟩
  | _ => exact absurd rfl ne

theorem Effect.DT_writer (h : Effect s i t) (ne : t.DT ≠ s.DT) : ∃ x, i = .ldDT x := by
  cases h with
  | delayTimer x => exact ⟨x, rfl⟩
  | _ => exact absurd rfl ne

theorem Effect.ST_writer (h : Effect s i t) (ne : t.ST ≠ s.ST) : ∃ x, i = .ldST x := by
  cases h with
  | soundTimer x => exact ⟨x, rfl⟩
  | _ => exact absurd rfl ne

theorem Effect.mem_writer (h : Effect s i t) (ne : t.mem ≠ s.mem) : (∃ x, i = .ldB x) ∨ ∃ x, i = .stRegs x := by
  cases h with
  | store _ writer => exact writer
  | _ => exact absurd rfl ne

theorem Effect.random_writer (h : Effect s i t) (ne : t.rng ≠ s.rng ∨ t.draws ≠ s.draws) :
    ∃ x nn, i = .rnd x nn := by
  cases h with
  | random x nn => exact ⟨x, nn, rfl⟩
  | _ => exact absurd ⟨rfl, rfl⟩ (not_and_or.2 ne)

theorem Effect.agents_kept (h : Effect s i t) : t.keys = s.keys ∧ t.started = s.started ∧ t.schedule = s.schedule := by
  cases h <;> exact ⟨rfl, rfl, rfl⟩

/-- An instruction halts a running core only by a fault. -/
theorem Effect.fault_of_halted (h : Effect s i t) (running : s.run = .running) (halted : t.run = .halted) :
    ∃ e n, Raises s i e n ∧ t = s.raise e n := by
  cases h with
  | fault raises => exact ⟨_, _, raises, rfl⟩
  | wait x => exact RunState.noConfusion halted
  | _ => exact RunState.noConfusion (running.symm.trans halted)

end

theorem writesReg_of_changed {i : Instr} {s t : State} {r : RegIdx} (h : exec i s = .next t)
    (changed : t.getV r ≠ s.getV r) : writesReg i r = true :=
  Bool.of_not_eq_false fun other => changed ((exec_effect h).register_kept other)

/-- Settles O28: whatever the effect, a register that is no destination is kept. -/
theorem registersChangeOnlyAsDestinations : Obligations.RegistersChangeOnlyAsDestinations := by
  unfold Obligations.RegistersChangeOnlyAsDestinations
  intro i s t r
  exact writesReg_of_changed

/-- Settles O37: the writers of each piece of state, read off the effect. -/
theorem eachStateHasItsWriters : Obligations.EachStateHasItsWriters := by
  unfold Obligations.EachStateHasItsWriters
  intro i s t h
  have effect := exec_effect h
  exact ⟨fun _ => writesReg_of_changed h, effect.pc_writer, effect.err_kept_of_pc, effect.run_writer, effect.err_writer,
    effect.I_writer, effect.stack_writer, effect.sp_writer, effect.fb_writer, effect.displayUpdates_writer,
    effect.DT_writer, effect.ST_writer, effect.mem_writer, effect.random_writer, effect.agents_kept⟩

/-- Settles O11: a halt is a fault, and each fault has its instructions, code and word. -/
theorem eachErrorHasItsInstructions : Obligations.EachErrorHasItsInstructions := by
  unfold Obligations.EachErrorHasItsInstructions
  intro i s t running h halted
  obtain ⟨e, n, raises, rfl⟩ := (exec_effect h).fault_of_halted running halted
  cases raises with
  | sys nnn => exact .inl ⟨nnn, rfl, rfl, by rw [State.raise_err, zextAddr_toNat]⟩
  | overflow nnn full => exact .inr (.inl ⟨nnn, rfl, full, rfl, rfl⟩)
  | underflow empty => exact .inr (.inr (.inl ⟨rfl, BitVec.eq_of_toNat_eq empty, rfl, rfl⟩))
  | outOfRange reaches => exact .inr (.inr (.inr ⟨reaches, rfl, rfl⟩))

end Sys2Proof.Machine

namespace Sys2Proof.Machine

/-! ### The core's turn (R72, R73, R183, R209) -/

theorem coreStep_idle {s : State} (h : s.started = false ∨ s.run ≠ .running) : coreStep s = .next s := by
  have disabled : s.coreEnabled = false := by
    rcases h with stopped | notRunning
    · simp [State.coreEnabled, stopped]
    · simp [State.coreEnabled, notRunning]
  rw [coreStep, disabled]
  rfl

theorem step_core {s : State} (hnext : s.nextUp = .core) : step s = coreStep s.popEvent := by
  rw [step_eq_runEvent, hnext]
  rfl

/-- The core's turn while it may not step changes nothing but the schedule (log 8). -/
theorem step_core_idle {s : State} (hnext : s.nextUp = .core) (h : s.started = false ∨ s.run ≠ .running) :
    step s = .next s.popEvent :=
  (step_core hnext).trans (coreStep_idle (s := s.popEvent) h)

/-- Settles O9: a core that may not step idles. -/
theorem coreIdlesUnlessRunning : Obligations.CoreIdlesUnlessRunning := by
  unfold Obligations.CoreIdlesUnlessRunning
  intro s
  exact step_core_idle

theorem State.coreEnabled_iff (s : State) : s.coreEnabled = true ↔ s.started = true ∧ s.run = .running := by
  simp [State.coreEnabled]

/-- A core that may step, at a pc that it can fetch from, decodes and executes the fetched word (R73). -/
theorem coreStep_fetches {s : State} (enabled : s.coreEnabled = true) (fetches : fetchable s.pc = true) :
    coreStep s = runWord s (decodeBytes s.fetchBytes) := by
  rw [coreStep, if_pos enabled, if_pos fetches]

/-- Settles O7: the turn fetches, decodes the fetched word and runs it, or raises the word's fault. -/
theorem stepRunsTheDecodedInstruction : Obligations.StepRunsTheDecodedInstruction := by
  unfold Obligations.StepRunsTheDecodedInstruction
  intro s hnext started running even low high
  have enabled : s.popEvent.coreEnabled = true := s.popEvent.coreEnabled_iff.2 ⟨started, running⟩
  have runs : step s = runWord s.popEvent (decodeBytes s.fetchBytes) :=
    (step_core hnext).trans (coreStep_fetches enabled ((fetchable_iff s.pc).2 ⟨even, low, high⟩))
  constructor
  · intro i decoded
    rw [runs, State.decodeBytes_fetchBytes_of_ok decoded]
    rfl
  · intro e illegal
    rw [runs, State.decodeBytes_fetchBytes_of_error illegal]
    rfl

/-- Settles O8: at such a pc the fetch check fails. -/
theorem fetchFromBadPcFaults : Obligations.FetchFromBadPcFaults := by
  unfold Obligations.FetchFromBadPcFaults
  intro s hnext started running bad
  have enabled : s.popEvent.coreEnabled = true := s.popEvent.coreEnabled_iff.2 ⟨started, running⟩
  have unfetchable : ¬ fetchable s.popEvent.pc = true := by
    rw [fetchable_iff, State.popEvent_pc]
    omega
  rw [step_core hnext, coreStep, if_pos enabled, if_neg unfetchable]
  rfl

/-! ### The events of the other agents, as what a next state says of them (R36, R39, R40) -/

section
variable {s t : State}

theorem tickEvent_next_iff : tickEvent s = .next t ↔ s.started = true ∧ s.ticked = t := by
  unfold tickEvent
  split <;> simp [*]

theorem keyPressEvent_next_iff {k : KeyIdx} :
    keyPressEvent k s = .next t ↔ (s.started = true ∧ s.keyDown k = false) ∧ s.keyPressed k = t := by
  unfold keyPressEvent
  cases s.started <;> cases s.keyDown k <;> simp

theorem keyReleaseEvent_next_iff {k : KeyIdx} :
    keyReleaseEvent k s = .next t ↔ (s.started = true ∧ s.keyDown k = true) ∧ s.setKey k false = t := by
  unfold keyReleaseEvent
  cases s.started <;> cases s.keyDown k <;> simp

theorem loadEvent_next_iff {image : List Byte} :
    loadEvent image s = .next t ↔ (s.started = false ∧ s.run ≠ .halted) ∧ s.loaded image = t := by
  unfold loadEvent State.isHalted
  cases s.started <;> by_cases halted : s.run = .halted <;> simp [halted]

theorem startEvent_next_iff : startEvent s = .next t ↔ s.started = false ∧ s.startedByHost = t := by
  unfold startEvent
  split <;> simp [*]

/-- The event of a step that completes. -/
theorem step_next {e : Event} (h : step s = .next t) (hnext : s.nextUp = e) : runEvent e s.popEvent = .next t := by
  rw [← hnext, ← step_eq_runEvent]
  exact h

/-- A start after a refused load is refused: it changes nothing (R243). -/
theorem State.startedByHost_halted (h : s.run = .halted) : s.startedByHost = s :=
  if_pos (by simp [State.isHalted, h])

theorem State.startedByHost_notHalted (h : s.run ≠ .halted) :
    s.startedByHost = { s with run := .running, started := true } :=
  if_neg (by simp [State.isHalted, h])

end

/-! ### HALTED and the key wait (R183, R209, R210) -/

/-- While the core is not running, a step that is no reset and ends no key wait changes timers and key levels only, provided
the host's load and start are out: in HALTED, or inside a run (R183, R209, R210, R243, R244). -/
theorem step_frozen {s t : State} (h : step s = .next t) (notRunning : s.run ≠ .running) (notReset : s.nextUp ≠ .reset)
    (noWaitEnds : ∀ k, s.nextUp = .keyPress k → ∀ x, s.run ≠ .awaitKey x)
    (noHost : s.run = .halted ∨ s.started = true) :
    t = { s.popEvent with DT := t.DT, ST := t.ST, keys := t.keys } := by
  cases hnext : s.nextUp with
  | core =>
    obtain rfl := Host.Outcome.next.inj ((step_core_idle hnext (.inr notRunning)).symm.trans h)
    rfl
  | tick =>
    obtain ⟨-, rfl⟩ := tickEvent_next_iff.1 (step_next h hnext)
    rfl
  | keyPress k =>
    obtain ⟨-, rfl⟩ := keyPressEvent_next_iff.1 (step_next h hnext)
    rw [State.keyPressed_notWaiting (s := s.popEvent) (noWaitEnds k hnext)]
    rfl
  | keyRelease k =>
    obtain ⟨-, rfl⟩ := keyReleaseEvent_next_iff.1 (step_next h hnext)
    rfl
  | reset => exact absurd hnext notReset
  | load image =>
    obtain ⟨⟨stopped, notHalted⟩, -⟩ := loadEvent_next_iff.1 (step_next h hnext)
    exact absurd (noHost.resolve_left notHalted) (Bool.eq_false_iff.1 stopped)
  | start =>
    obtain ⟨stopped, rfl⟩ := startEvent_next_iff.1 (step_next h hnext)
    have halted : s.run = .halted := noHost.resolve_right (Bool.eq_false_iff.1 stopped)
    rw [State.startedByHost_halted (s := s.popEvent) halted]

/-- Settles O12: in HALTED every step but the reset is frozen. -/
theorem haltedIsLeftOnlyByReset : Obligations.HaltedIsLeftOnlyByReset := by
  unfold Obligations.HaltedIsLeftOnlyByReset
  intro s t h halted notReset
  have frozen := step_frozen h (halted ▸ RunState.noConfusion) notReset (fun _ _ _ => halted ▸ RunState.noConfusion)
    (.inl halted)
  exact ⟨(congrArg State.run frozen).trans halted, (congrArg State.err frozen).trans rfl, frozen⟩

/-- Settles O47: in the key wait every step but a key press and the reset is frozen. -/
theorem keyWaitLastsUntilKeyPress : Obligations.KeyWaitLastsUntilKeyPress := by
  unfold Obligations.KeyWaitLastsUntilKeyPress
  intro x s t waiting started h noPress notReset
  exact step_frozen h (waiting ▸ RunState.noConfusion) notReset (fun k press => absurd press (noPress k)) (.inr started)

/-! ### Faults and the run state (R30, R206) -/

/-- A core step that halts a running core raises an error. -/
theorem coreStep_halts {s t : State} (running : s.run = .running) (h : coreStep s = .next t) (halted : t.run = .halted) :
    ∃ e n, t = s.raise e n := by
  rcases coreStep_cases s with ⟨-, e⟩ | ⟨-, -, e⟩ | ⟨-, -, -, e⟩ | ⟨-, -, i, -, e⟩
  · obtain rfl := Host.Outcome.next.inj (e.symm.trans h)
    exact RunState.noConfusion (running.symm.trans halted)
  · exact ⟨_, _, (Host.Outcome.next.inj (e.symm.trans h)).symm⟩
  · exact ⟨_, _, (Host.Outcome.next.inj (e.symm.trans h)).symm⟩
  · obtain ⟨e, n, -, rfl⟩ := (exec_effect (e.symm.trans h)).fault_of_halted running halted
    exact ⟨e, n, rfl⟩

/-- Settles O10: the step is one fault entry, after which the core idles. -/
theorem faultEntryWritesOnlyRunAndErr : Obligations.FaultEntryWritesOnlyRunAndErr := by
  unfold Obligations.FaultEntryWritesOnlyRunAndErr
  intro s t hnext running h halted
  obtain ⟨e, n, rfl⟩ := coreStep_halts (s := s.popEvent) running ((step_core hnext).symm.trans h) halted
  exact ⟨rfl, ⟨e, n, rfl⟩, fun again => step_core_idle again (.inr RunState.noConfusion)⟩

/-- A core step changes the run state of a running core only, to HALTED or, by `LD Vx, K`, to the key wait. -/
theorem coreStep_run {s t : State} (h : coreStep s = .next t) (ne : t.run ≠ s.run) :
    s.run = .running ∧ ((∃ x, decode s.fetchWord = .ok (.ldVxK x) ∧ t.run = .awaitKey x) ∨ t.run = .halted) := by
  have running {s : State} (enabled : s.coreEnabled = true) : s.run = .running := (s.coreEnabled_iff.1 enabled).2
  rcases coreStep_cases s with ⟨-, e⟩ | ⟨enabled, -, e⟩ | ⟨enabled, -, -, e⟩ | ⟨enabled, -, i, decoded, e⟩
  · obtain rfl := Host.Outcome.next.inj (e.symm.trans h)
    exact absurd rfl ne
  · obtain rfl := Host.Outcome.next.inj (e.symm.trans h)
    exact ⟨running enabled, .inr rfl⟩
  · obtain rfl := Host.Outcome.next.inj (e.symm.trans h)
    exact ⟨running enabled, .inr rfl⟩
  · refine ⟨running enabled, ?_⟩
    rcases (exec_effect (e.symm.trans h)).run_writer ne with ⟨x, rfl, waits⟩ | ⟨halted, -⟩
    · exact .inl ⟨x, decoded, waits⟩
    · exact .inr halted

/-- Settles O49: of the events of a started machine only the core's turn, a key press in the key wait and the reset write
the run state. -/
theorem runStateChangesAsListed : Obligations.RunStateChangesAsListed := by
  unfold Obligations.RunStateChangesAsListed
  intro s t started h ne
  cases hnext : s.nextUp with
  | core =>
    obtain ⟨running, waits | halted⟩ := coreStep_run (s := s.popEvent) (step_next h hnext) ne
    · exact .inl ⟨running, rfl, waits⟩
    · exact .inr (.inr (.inl ⟨running, rfl, halted⟩))
  | tick =>
    obtain ⟨-, rfl⟩ := tickEvent_next_iff.1 (step_next h hnext)
    exact absurd rfl ne
  | keyPress k =>
    obtain ⟨-, rfl⟩ := keyPressEvent_next_iff.1 (step_next h hnext)
    by_cases waiting : ∃ x, s.run = .awaitKey x
    · obtain ⟨x, waiting⟩ := waiting
      rw [State.keyPressed_waiting (s := s.popEvent) waiting]
      exact .inr (.inl ⟨x, k, waiting, rfl, rfl⟩)
    · rw [State.keyPressed_notWaiting (s := s.popEvent) fun x e => waiting ⟨x, e⟩] at ne
      exact absurd rfl ne
  | keyRelease k =>
    obtain ⟨-, rfl⟩ := keyReleaseEvent_next_iff.1 (step_next h hnext)
    exact absurd rfl ne
  | reset => exact .inr (.inr (.inr rfl))
  | load image =>
    obtain ⟨⟨stopped, -⟩, -⟩ := loadEvent_next_iff.1 (step_next h hnext)
    exact absurd started (Bool.eq_false_iff.1 stopped)
  | start =>
    obtain ⟨stopped, -⟩ := startEvent_next_iff.1 (step_next h hnext)
    exact absurd started (Bool.eq_false_iff.1 stopped)

/-! ### Steps that complete -/

/-- With sp in its bounds every instruction answers a next state (log 7). -/
theorem exec_completes (i : Instr) {s : State} (bound : s.sp.toNat ≤ 16) : ∃ t, exec i s = .next t := by
  cases i with
  | ret =>
    rcases Nat.eq_zero_or_pos s.sp.toNat with empty | occupied
    · exact ⟨_, execRet_empty empty⟩
    · exact ⟨_, execRet_top occupied bound⟩
  | call nnn =>
    rcases Nat.lt_or_ge s.sp.toNat 16 with room | full
    · exact ⟨_, execCall_room room nnn⟩
    · exact ⟨_, execCall_full full nnn⟩
  | _ => exact ⟨_, rfl⟩

theorem coreStep_completes {s : State} (bound : s.sp.toNat ≤ 16) : ∃ t, coreStep s = .next t := by
  rcases coreStep_cases s with ⟨-, e⟩ | ⟨-, -, e⟩ | ⟨-, -, -, e⟩ | ⟨-, -, i, -, e⟩
  · exact ⟨_, e⟩
  · exact ⟨_, e⟩
  · exact ⟨_, e⟩
  · rw [e]
    exact exec_completes i bound

/-- Settles O58: event by event, its outcome is a next state exactly under its agent's condition. -/
theorem stepCompletesExactlyWhenEnabled : Obligations.StepCompletesExactlyWhenEnabled := by
  unfold Obligations.StepCompletesExactlyWhenEnabled
  intro s bound
  rw [step_eq_runEvent]
  cases s.nextUp with
  | core => exact iff_of_true trivial (coreStep_completes (s := s.popEvent) bound)
  | reset => exact iff_of_true trivial ⟨_, rfl⟩
  | tick => simp [eventEnabled, runEvent, tickEvent_next_iff]
  | keyPress k => simp [eventEnabled, runEvent, keyPressEvent_next_iff]
  | keyRelease k => simp [eventEnabled, runEvent, keyReleaseEvent_next_iff]
  | load image => simp [eventEnabled, runEvent, loadEvent_next_iff]
  | start => simp [eventEnabled, runEvent, startEvent_next_iff]

/-! ### The invariant (R10, R22, R24, R31, R101, R206, R207) -/

theorem Inv.err_none {s : State} (h : Inv s) (notHalted : s.run ≠ .halted) : s.err = none :=
  Option.not_isSome_iff_eq_none.1 fun some => notHalted (h.errIffHalted.2 some)

/-- The invariant does not speak of timers, key levels and schedule. -/
theorem Inv.set_inputs {s : State} (h : Inv s) (DT ST : Byte) (keys : Vector Bool 16) (schedule : List Event) :
    Inv { s with DT := DT, ST := ST, keys := keys, schedule := schedule } :=
  ⟨h.memWf, h.fontWf, h.pcBound, h.spBound, h.stackOk, h.errIffHalted, h.errPc, h.stoppedPc⟩

theorem Inv.popEvent {s : State} (h : Inv s) : Inv s.popEvent := h.set_inputs s.DT s.ST s.keys s.schedule.tail

/-- Fault entry keeps the invariant, whatever the error (R206, R207). -/
theorem Inv.raise {s : State} (h : Inv s) (e : ErrKind) (n : Nat) : Inv (s.raise e n) where
  memWf := h.memWf
  fontWf := h.fontWf
  pcBound := h.pcBound
  spBound := h.spBound
  stackOk := h.stackOk
  errIffHalted := ⟨fun _ => rfl, fun _ => rfl⟩
  errPc := fun _ recorded => Option.some.inj recorded ▸ rfl
  stoppedPc := h.stoppedPc

/-- The invariant of a started machine without an error. -/
theorem Inv.of_started {t : State} (memWf : t.mem.wf = true) (fontWf : t.mem.font.wf = true)
    (pcBound : t.pc.toNat ≤ 0x10FE) (spBound : t.sp.toNat ≤ 16) (stackOk : Machine.stackOk t)
    (notHalted : t.run ≠ .halted) (noErr : t.err = none) (started : t.started = true) : Inv t where
  memWf := memWf
  fontWf := fontWf
  pcBound := pcBound
  spBound := spBound
  stackOk := stackOk
  errIffHalted := iff_of_false notHalted (by rw [noErr]; exact Bool.noConfusion)
  errPc := fun _ recorded => nomatch noErr.symm.trans recorded
  stoppedPc := fun stopped => nomatch stopped.symm.trans started

/-- From a pc that can be fetched from, pc + 2 is a return address (R72, R101). -/
theorem fetchable_add_two {pc : Half} (fetches : fetchable pc = true) :
    (pc + 2).toNat % 2 = 0 ∧ 0x202 ≤ (pc + 2).toNat ∧ (pc + 2).toNat ≤ 0x1000 := by
  obtain ⟨even, low, high⟩ := (fetchable_iff pc).1 fetches
  bv_omega

theorem fetchable_add_four {pc : Half} (fetches : fetchable pc = true) : (pc + 4).toNat ≤ 0x10FE := by
  obtain ⟨-, -, high⟩ := (fetchable_iff pc).1 fetches
  bv_omega

/-- A push of a return address keeps the stack's part of the invariant (R101, R103). -/
theorem stackOk_push {s : State} (h : stackOk s) (room : s.sp.toNat < 16) {a : Half}
    (returnAddress : a.toNat % 2 = 0 ∧ 0x202 ≤ a.toNat ∧ a.toNat ≤ 0x1000) : stackOk (s.push a) := by
  intro k hk
  rw [State.push_sp_toNat room] at hk
  rw [State.stackAt_push s a k room]
  split
  next => exact returnAddress
  next notTop => exact h k (by omega)

theorem State.dropTop_sp_toNat {s : State} (occupied : 0 < s.sp.toNat) : s.dropTop.sp.toNat = s.sp.toNat - 1 :=
  BitVec.toNat_sub_of_le (BitVec.le_def.2 occupied)

/-- Every effect of an instruction of an enabled core at a pc that it can fetch from keeps the invariant. -/
theorem Effect.keeps_inv {s t : State} {i : Instr} (effect : Effect s i t) (h : Inv s) (enabled : s.coreEnabled = true)
    (fetches : fetchable s.pc = true) : Inv t := by
  obtain ⟨started, running⟩ := s.coreEnabled_iff.1 enabled
  have notHalted : s.run ≠ .halted := running ▸ RunState.noConfusion
  have noErr : s.err = none := h.err_none notHalted
  have nextPc : (s.pc + 2).toNat ≤ 0x10FE := (fetchable_add_two fetches).2.2.trans (by decide)
  cases effect with
  | fault _ => exact h.raise _ _
  | store bs _ =>
    exact .of_started (Memory.writeBytes_wf h.memWf _ bs) ((s.mem.writeBytes_font _ bs).symm ▸ h.fontWf) nextPc h.spBound
      h.stackOk notHalted noErr started
  | wait x => exact .of_started h.memWf h.fontWf nextPc h.spBound h.stackOk RunState.noConfusion noErr started
  | jump a _ bound => exact .of_started h.memWf h.fontWf bound h.spBound h.stackOk notHalted noErr started
  | skip cond _ =>
    refine .of_started h.memWf h.fontWf ?_ h.spBound h.stackOk notHalted noErr started
    cases cond
    · exact nextPc
    · exact fetchable_add_four fetches
  | call nnn room =>
    exact .of_started h.memWf h.fontWf (zextAddr_le nnn) ((State.push_sp_toNat room (s.pc + 2)).trans_le room)
      (stackOk_push h.stackOk room (fetchable_add_two fetches)) notHalted noErr started
  | ret occupied bound =>
    have top := h.stackOk (s.sp.toNat - 1) (by omega)
    have fewer : s.dropTop.sp.toNat ≤ s.sp.toNat := (State.dropTop_sp_toNat occupied).trans_le (Nat.sub_le _ _)
    exact .of_started h.memWf h.fontWf (top.2.2.trans (by decide)) (fewer.trans h.spBound)
      (fun k hk => h.stackOk k (hk.trans_le fewer)) notHalted noErr started
  | _ => exact .of_started h.memWf h.fontWf nextPc h.spBound h.stackOk notHalted noErr started

theorem coreStep_keeps_inv {s t : State} (h : Inv s) (hstep : coreStep s = .next t) : Inv t := by
  rcases coreStep_cases s with ⟨-, e⟩ | ⟨-, -, e⟩ | ⟨-, -, -, e⟩ | ⟨enabled, fetches, i, -, e⟩
  · exact Host.Outcome.next.inj (e.symm.trans hstep) ▸ h
  · exact Host.Outcome.next.inj (e.symm.trans hstep) ▸ h.raise _ _
  · exact Host.Outcome.next.inj (e.symm.trans hstep) ▸ h.raise _ _
  · exact (exec_effect (e.symm.trans hstep)).keeps_inv h enabled fetches

theorem Inv.ticked {s : State} (h : Inv s) : Inv s.ticked := h.set_inputs (tickDown s.DT) (tickDown s.ST) s.keys s.schedule

theorem Inv.setKey {s : State} (h : Inv s) (k : KeyIdx) (b : Bool) : Inv (s.setKey k b) :=
  h.set_inputs s.DT s.ST (s.setKey k b).keys s.schedule

theorem Inv.keyPressed {s : State} (h : Inv s) (started : s.started = true) (k : KeyIdx) : Inv (s.keyPressed k) := by
  by_cases waiting : ∃ x, s.run = .awaitKey x
  · obtain ⟨x, waiting⟩ := waiting
    rw [State.keyPressed_waiting waiting]
    have noErr : s.err = none := h.err_none (waiting ▸ RunState.noConfusion)
    exact .of_started h.memWf h.fontWf h.pcBound h.spBound h.stackOk RunState.noConfusion noErr started
  · rw [State.keyPressed_notWaiting fun x e => waiting ⟨x, e⟩]
    exact h.setKey k true

/-- The reset state with any font that lies below 0x200 (R41). -/
theorem Inv.hostReset {s : State} (h : Inv s) : Inv s.hostReset where
  memWf := rfl
  fontWf := h.fontWf
  pcBound := (by decide : (0x200#16).toNat ≤ 0x10FE)
  spBound := Nat.zero_le 16
  stackOk := fun _ below => absurd below (Nat.not_lt_zero _)
  errIffHalted := iff_of_false RunState.noConfusion Bool.noConfusion
  errPc := nofun
  stoppedPc := fun _ => rfl

/-- An image that does not fit (R243). -/
theorem State.loaded_tooLarge {image : List Byte} (large : 3584 < image.length) (s : State) :
    s.loaded image = { s with run := .halted, err := some ⟨.programImageTooLarge, 0x200#16, image.length⟩ } :=
  if_neg (Nat.not_le_of_lt large)

theorem Inv.loaded {s : State} (h : Inv s) (stopped : s.started = false) (image : List Byte) : Inv (s.loaded image) := by
  rcases Nat.lt_or_ge 3584 image.length with large | fits
  · rw [State.loaded_tooLarge large]
    exact ⟨h.memWf, h.fontWf, h.pcBound, h.spBound, h.stackOk, ⟨fun _ => rfl, fun _ => rfl⟩,
      fun _ recorded => Option.some.inj recorded ▸ (h.stoppedPc stopped).symm, h.stoppedPc⟩
  · rw [State.loaded_fits fits]
    exact ⟨Memory.writeBytes_wf h.memWf _ image, (s.mem.writeBytes_font _ image).symm ▸ h.fontWf, h.pcBound, h.spBound,
      h.stackOk, h.errIffHalted, h.errPc, h.stoppedPc⟩

theorem Inv.startedByHost {s : State} (h : Inv s) : Inv s.startedByHost := by
  by_cases halted : s.run = .halted
  · rw [State.startedByHost_halted halted]
    exact h
  · rw [State.startedByHost_notHalted halted]
    exact .of_started h.memWf h.fontWf h.pcBound h.spBound h.stackOk RunState.noConfusion (h.err_none halted) rfl

/-- Settles O60: the invariant is kept by the core's step, instruction by instruction, and by the event of every other
agent. -/
theorem stepKeepsTheInvariant : Obligations.StepKeepsTheInvariant := by
  unfold Obligations.StepKeepsTheInvariant
  intro s t h hstep
  have inv := h.popEvent
  cases hnext : s.nextUp with
  | core => exact coreStep_keeps_inv inv (step_next hstep hnext)
  | tick =>
    obtain ⟨-, rfl⟩ := tickEvent_next_iff.1 (step_next hstep hnext)
    exact inv.ticked
  | keyPress k =>
    obtain ⟨⟨started, -⟩, rfl⟩ := keyPressEvent_next_iff.1 (step_next hstep hnext)
    exact inv.keyPressed started k
  | keyRelease k =>
    obtain ⟨-, rfl⟩ := keyReleaseEvent_next_iff.1 (step_next hstep hnext)
    exact inv.setKey k false
  | reset => exact Host.Outcome.next.inj (step_next hstep hnext) ▸ inv.hostReset
  | load image =>
    obtain ⟨⟨stopped, -⟩, rfl⟩ := loadEvent_next_iff.1 (step_next hstep hnext)
    exact inv.loaded stopped image
  | start =>
    obtain ⟨-, rfl⟩ := startEvent_next_iff.1 (step_next hstep hnext)
    exact inv.startedByHost

/-- Settles O59: the reset state holds no error, an empty stack and the default font, which ends below 0x200. -/
theorem resetMeetsTheInvariant : Obligations.ResetMeetsTheInvariant := by
  unfold Obligations.ResetMeetsTheInvariant
  exact .of_started rfl (by decide) (by decide) (by decide) (fun _ below => absurd below (Nat.not_lt_zero _))
    RunState.noConfusion rfl rfl

end Sys2Proof.Machine

namespace Sys2Proof.Machine

/-! ### Control flow (R100, R101, R103, R108) -/

/-- Settles O13: SYS raises UnknownOpcode, and the widened address keeps its value. -/
theorem sysTakesUnknownOpcode : Obligations.SysTakesUnknownOpcode := by
  unfold Obligations.SysTakesUnknownOpcode
  intro nnn s
  rw [← zextAddr_toNat nnn]
  rfl

/-- Settles O14: RET takes the top entry off the stack, or raises StackUnderflow when there is none. -/
theorem returnPopsOrUnderflows : Obligations.ReturnPopsOrUnderflows := by
  unfold Obligations.ReturnPopsOrUnderflows
  intro s
  constructor
  · intro occupied bound
    exact ⟨_, execRet_top occupied bound, rfl, State.dropTop_sp_toNat occupied, rfl⟩
  · exact execRet_empty

/-- Settles O15: above 16 neither an entry to pop nor one to push to exists. -/
theorem stackPointerAboveSixteenPopsNothing : Obligations.StackPointerAboveSixteenPopsNothing := by
  unfold Obligations.StackPointerAboveSixteenPopsNothing
  intro nnn s above
  exact ⟨execRet_above above, execCall_full above.le nnn⟩

/-- Settles O19: JP V0 only jumps, and its target does not wrap. -/
theorem jumpWithOffsetAddsV0 : Obligations.JumpWithOffsetAddsV0 := by
  unfold Obligations.JumpWithOffsetAddsV0
  intro nnn s
  exact ⟨s.jump (zextAddr nnn + zextByte (s.getV 0x0#4)), rfl, rfl, zextAddr_add_zextByte_toNat nnn (s.getV 0x0#4)⟩

/-- The first of a list of instructions completes, and the others go on from there. -/
theorem execAll_cons {i : Instr} {s t : State} (h : exec i s = .next t) (is : List Instr) :
    execAll (i :: is) s = execAll is t := by
  rw [execAll, h]

/-- Calls that fit push one entry each and keep every entry below (R103). -/
theorem execAll_calls (as : List Addr12) (s : State) (fits : s.sp.toNat + as.length ≤ 16) :
    ∃ t, execAll (as.map Instr.call) s = .next t ∧ t.sp.toNat = s.sp.toNat + as.length ∧
      ∀ j, j < s.sp.toNat → t.stackAt j = s.stackAt j := by
  induction as generalizing s with
  | nil => exact ⟨s, rfl, rfl, fun _ _ => rfl⟩
  | cons a as ih =>
    rw [List.length_cons] at fits ⊢
    have room : s.sp.toNat < 16 := by omega
    let called := (s.push (s.pc + 2)).jump (zextAddr a)
    have sp : called.sp.toNat = s.sp.toNat + 1 := State.push_sp_toNat room (s.pc + 2)
    obtain ⟨t, runs, depth, kept⟩ := ih called (by omega)
    have calls : exec (.call a) s = .next called := execCall_room room a
    refine ⟨t, (execAll_cons calls _).trans runs, by omega, fun j below => ?_⟩
    have pushed : called.stackAt j = if j = s.sp.toNat then s.pc + 2 else s.stackAt j := State.stackAt_push s _ j room
    rw [kept j (by omega), pushed, if_neg (by omega)]

/-- One return after another goes down the stack, leaves its entries, and ends at the last entry popped (R101). -/
theorem execAll_rets (n : Nat) (s : State) (occupied : n + 1 ≤ s.sp.toNat) (bound : s.sp.toNat ≤ 16) :
    ∃ u, execAll (List.replicate (n + 1) .ret) s = .next u ∧ u.sp.toNat = s.sp.toNat - (n + 1) ∧
      u.pc = s.stackAt (s.sp.toNat - (n + 1)) ∧ ∀ j, u.stackAt j = s.stackAt j := by
  induction n generalizing s with
  | zero =>
    have returns : exec .ret s = .next (s.dropTop.jump (s.stackAt (s.sp.toNat - 1))) := execRet_top occupied bound
    exact ⟨_, execAll_cons returns [], State.dropTop_sp_toNat occupied, rfl, fun _ => rfl⟩
  | succ n ih =>
    let returned := s.dropTop.jump (s.stackAt (s.sp.toNat - 1))
    have sp : returned.sp.toNat = s.sp.toNat - 1 := State.dropTop_sp_toNat (by omega)
    obtain ⟨u, runs, depth, pc, kept⟩ := ih returned (by omega) (by omega)
    have returns : exec .ret s = .next returned := execRet_top (by omega) bound
    refine ⟨u, (execAll_cons returns _).trans runs, by omega, ?_, kept⟩
    have entry : returned.sp.toNat - (n + 1) = s.sp.toNat - (n + 1 + 1) := by omega
    rw [pc, entry]
    rfl

/-- Settles O20: the first call's entry stays under those of the others, and the last return pops it. -/
theorem nestedCallsUnwind : Obligations.NestedCallsUnwind := by
  unfold Obligations.NestedCallsUnwind
  constructor
  · intro a as s fits
    have room : s.sp.toNat < 16 := by omega
    let called := (s.push (s.pc + 2)).jump (zextAddr a)
    have sp : called.sp.toNat = s.sp.toNat + 1 := State.push_sp_toNat room (s.pc + 2)
    have pushed (j : Nat) : called.stackAt j = if j = s.sp.toNat then s.pc + 2 else s.stackAt j :=
      State.stackAt_push s _ j room
    obtain ⟨t, calls, depth, keptByCalls⟩ := execAll_calls as called (by omega)
    obtain ⟨u, rets, shallow, pc, keptByRets⟩ := execAll_rets as.length t (by omega) (by omega)
    have bottom : t.sp.toNat - (as.length + 1) = s.sp.toNat := by omega
    have first : exec (.call a) s = .next called := execCall_room room a
    refine ⟨t, u, (execAll_cons first _).trans calls, by omega, rets, ?_, ?_, fun j below => ?_⟩
    · rw [pc, bottom, keptByCalls _ (by omega), pushed, if_pos rfl]
    · exact BitVec.eq_of_toNat_eq (shallow.trans bottom)
    · rw [keptByRets, keptByCalls j (by omega), pushed, if_neg (by omega)]
  · intro a as s full
    obtain ⟨t, calls, depth, -⟩ := execAll_calls as s full.le
    exact ⟨t, calls, execCall_full (by omega) a⟩

/-! ### Arithmetic and logic (R123 to R125, R128, R130, R141, R142, R160) -/

/-- One register write, as its value and its frame (R20). -/
theorem State.setV_advance_writes (s : State) (x : RegIdx) (b : Byte) :
    ∃ t, Host.Outcome.next (s.setV x b).advance = (.next t : Host.Outcome State Fault Refusal) ∧
      t = { s with V := t.V, pc := s.pc + 2 } ∧ t.getV x = b ∧ ∀ r, r ≠ x → t.getV r = s.getV r := by
  obtain ⟨t, hexec, hframe, hV⟩ := s.setV_advance_completes x b
  exact ⟨t, hexec, hframe, (hV x).trans (if_pos rfl), fun r ne => (hV r).trans (if_neg ne)⟩

/-- Settles O23: each is one register write, of the two registers combined bit by bit. -/
theorem logicWritesVxOnly : Obligations.LogicWritesVxOnly := by
  unfold Obligations.LogicWritesVxOnly
  intro x y s
  refine ⟨?_, ?_, ?_⟩
  · obtain ⟨t, hexec, hframe, hx, hother⟩ := s.setV_advance_writes x (s.getV x ||| s.getV y)
    exact ⟨t, hexec, hframe, fun k => by rw [hx, BitVec.getLsbD_or], hother⟩
  · obtain ⟨t, hexec, hframe, hx, hother⟩ := s.setV_advance_writes x (s.getV x &&& s.getV y)
    exact ⟨t, hexec, hframe, fun k => by rw [hx, BitVec.getLsbD_and], hother⟩
  · obtain ⟨t, hexec, hframe, hx, hother⟩ := s.setV_advance_writes x (s.getV x ^^^ s.getV y)
    exact ⟨t, hexec, hframe, fun k => by rw [hx, BitVec.getLsbD_xor], hother⟩

/-- The bit that a right shift loses is the remainder (R128). -/
theorem shrFlag_toNat (a : Byte) : (shrFlag a).toNat = a.toNat % 2 := by
  have bit : a.getLsbD 0 = decide (a.toNat % 2 = 1) := Nat.testBit_zero _
  rw [shrFlag, bit, flagOf_decide_toNat]
  split <;> omega

/-- The bit that a left shift loses is the top bit (R130). -/
theorem shlFlag_toNat (a : Byte) : (shlFlag a).toNat = a.toNat / 128 := by
  have bit : a.getLsbD 7 = decide (128 ≤ a.toNat) := (BitVec.msb_eq_getLsbD_last a).symm.trans (BitVec.msb_eq_decide a)
  have := a.isLt
  rw [shlFlag, bit, flagOf_decide_toNat]
  split <;> omega

/-- Settles O26: the result is half or twice VX and the flag the bit lost. -/
theorem shiftsSetTheBitShiftedOut : Obligations.ShiftsSetTheBitShiftedOut := by
  unfold Obligations.ShiftsSetTheBitShiftedOut
  intro x y s
  have half (a : Byte) : (a >>> 1).toNat = a.toNat / 2 := by
    rw [BitVec.toNat_ushiftRight, Nat.shiftRight_eq_div_pow]
  have twice (a : Byte) : (a <<< 1).toNat = a.toNat * 2 % 256 := by
    rw [BitVec.toNat_shiftLeft, Nat.shiftLeft_eq]
  exact ⟨s.setResultAndFlag_advance_completes x (shrFlag_toNat _) (half _),
    s.setResultAndFlag_advance_completes x (shlFlag_toNat _) (twice _)⟩

theorem flagOf_toNat_zero_or_one (cond : Bool) : (flagOf cond).toNat = 0 ∨ (flagOf cond).toNat = 1 := by
  cases cond
  · exact .inl rfl
  · exact .inr rfl

/-- A flag written last stands in VF, 0 or 1 (R21, R132). -/
theorem State.getV_flag_written_last (s : State) (cond : Bool) :
    ((s.setV regF (flagOf cond)).getV 0xF#4).toNat = 0 ∨ ((s.setV regF (flagOf cond)).getV 0xF#4).toNat = 1 := by
  rw [State.getV_setV, if_pos rfl]
  exact flagOf_toNat_zero_or_one cond

/-- Settles O27: each of the six writes its flag last, unless DRW faults, which halts. -/
theorem flagWritersLeaveZeroOrOne : Obligations.FlagWritersLeaveZeroOrOne := by
  unfold Obligations.FlagWritersLeaveZeroOrOne
  intro i s t writer running h completed
  cases i with
  | addReg x y | sub x y | shr x y | subn x y | shl x y =>
    exact Host.Outcome.next.inj h ▸ State.getV_flag_written_last _ _
  | drw x y n =>
    obtain rfl := Host.Outcome.next.inj h
    rcases s.ifInRange_cases s.base n.toNat _ with ⟨-, e⟩ | ⟨-, -, e⟩
    · rw [e]
      exact State.getV_flag_written_last _ _
    · exact RunState.noConfusion ((congrArg State.run e).symm.trans completed)
  | _ => exact Bool.noConfusion writer

theorem lowNibble_toNat (b : Byte) : (lowNibble b).toNat = b.toNat % 16 := by
  simp [lowNibble]

/-- Settles O30: one write of I, of the 16-bit sum. -/
theorem addIWrapsAtSixteenBits : Obligations.AddIWrapsAtSixteenBits := by
  unfold Obligations.AddIWrapsAtSixteenBits
  intro x s
  refine ⟨(s.setI (s.I + zextByte (s.getV x))).advance, rfl, rfl, ?_⟩
  rw [State.advance_I, State.setI_I, BitVec.toNat_add, zextByte_toNat]

/-- A digit's sprite lies within the font table, so its address does not wrap (R10, R142). -/
theorem digitAddress_toNat {f : Font} (wf : f.wf = true) (d : BitVec 4) :
    (digitAddress f d).toNat = f.base.toNat + 5 * d.toNat := by
  have below : f.base.toNat + 80 ≤ 0x200 := of_decide_eq_true wf
  have := d.isLt
  have wide : (d.setWidth 16).toNat = d.toNat := BitVec.toNat_setWidth_of_le (by decide)
  rw [digitAddress, BitVec.toNat_add, BitVec.toNat_mul, wide, BitVec.toNat_ofNat]
  omega

/-- Settles O31: one write of I, of the digit's address. -/
theorem loadFPointsAtDigit : Obligations.LoadFPointsAtDigit := by
  unfold Obligations.LoadFPointsAtDigit
  intro x s wf
  refine ⟨(s.setI (digitAddress s.mem.font (lowNibble (s.getV x)))).advance, rfl, rfl, ?_⟩
  rw [State.advance_I, State.setI_I, digitAddress_toNat wf, lowNibble_toNat]

/-- Settles O39: one register write, of the masked byte, after one draw; a listed byte is the one drawn. -/
theorem randomByteIsMasked : Obligations.RandomByteIsMasked := by
  unfold Obligations.RandomByteIsMasked
  intro x nn s
  have masked (s : State) : (s.afterDraw.setV x (s.randomByte &&& nn)).advance.getV x = s.randomByte &&& nn := by simp
  constructor
  · refine ⟨s.randomByte, _, rfl, rfl, masked s, ?_, fun q ne => ?_⟩
    · rw [masked, BitVec.and_assoc, BitVec.and_not_self]
      exact BitVec.and_zero
    · simp [ne]
  · exact fun r => ⟨_, rfl, masked { s with rng := r :: s.rng }⟩

/-! ### Memory (R51, R61, R144, R145) -/

/-- Settles O33: a store of the block V0 to VX at I, or the fault of the range check. -/
theorem storeRegistersFromI : Obligations.StoreRegistersFromI := by
  unfold Obligations.StoreRegistersFromI
  intro x s wf
  constructor
  · intro inRange
    have len := s.regsTo_length x
    obtain ⟨t, hexec, hframe, hfont, hblock, houtside⟩ :=
      s.storeAtI_completes wf (s.regsTo x) (len ▸ Nat.succ_le_succ inRange)
    rw [len] at hexec houtside
    refine ⟨t, hexec, hframe, hfont, fun k le => ?_, houtside⟩
    have hk : k.toNat < (s.regsTo x).length := by omega
    have stored := s.regsTo_getD x le
    rw [List.getElem?_eq_getElem hk, Option.getD_some, BitVec.ofNat_toNat, BitVec.setWidth_eq] at stored
    exact (hblock k.toNat hk).trans stored
  · intro outOfRange
    exact congrArg Host.Outcome.next (State.ifInRange_error (Nat.succ_pos _) (Nat.succ_lt_succ outOfRange) _)

/-- Settles O34: a load of X + 1 bytes into the registers from 0 on, or the fault of the range check. -/
theorem loadRegistersFromI : Obligations.LoadRegistersFromI := by
  unfold Obligations.LoadRegistersFromI
  intro x s
  constructor
  · intro inRange
    let bytes := s.mem.readBytes s.base (x.toNat + 1)
    have len : bytes.length = x.toNat + 1 := Memory.readBytes_length _ _ _
    have loads : exec (.ldRegs x) s = .next (s.setRegsFrom 0 bytes).advance :=
      congrArg Host.Outcome.next (State.ifInRange_ok (.inr (Nat.succ_le_succ inRange)) _)
    refine ⟨_, loads, ?_, fun r => ?_⟩
    · rw [State.setRegsFrom_eq]
      rfl
    · split
      next le =>
        have := x.isLt
        have byte := s.mem.readBytes_getD s.base (Nat.lt_succ_of_le le)
        rw [State.advance_getV, State.getV_setRegsFrom s 0 bytes (by omega), if_pos (by omega)]
        exact byte
      next above => exact s.getV_setRegsFrom_zero_above len above
  · intro outOfRange
    exact congrArg Host.Outcome.next (State.ifInRange_error (Nat.succ_pos _) (Nat.succ_lt_succ outOfRange) _)

/-- Settles O36: after a store at pc + 2 the next fetch reads the first two bytes of the block. -/
theorem storeIsSeenByNextFetch : Obligations.StoreIsSeenByNextFetch := by
  unfold Obligations.StoreIsSeenByNextFetch
  intro x s wf nextIsI
  have fetched {t : State} (hframe : t = { s with mem := t.mem, pc := s.pc + 2 }) :
      t.fetchWord = wordOfBytes (t.mem.read s.I.toNat) (t.mem.read (s.I.toNat + 1)) := by
    have hpc : t.pc = s.I := (congrArg State.pc hframe).trans nextIsI.symm
    rw [State.fetchWord, hpc]
  constructor
  · intro inRange one
    obtain ⟨t, hexec, hframe, -, hstored, -⟩ := (storeRegistersFromI x s wf).1 inRange
    have first : t.mem.read s.I.toNat = s.getV 0x0#4 := hstored 0x0#4 (Nat.zero_le _)
    have second : t.mem.read (s.I.toNat + 1) = s.getV 0x1#4 := hstored 0x1#4 one
    exact ⟨t, hexec, by rw [fetched hframe, first, second]; rfl⟩
  · intro inRange
    obtain ⟨t, hexec, hframe, -, hundreds, tens, -⟩ := (storeDecimalDigits x s wf).1 inRange
    exact ⟨t, hexec, by rw [fetched hframe, wordOfBytes_toNat, hundreds, tens]⟩

/-! ### What an instruction does not depend on (R26, R51) -/

/-- RET goes along with a change `f` of the state that leaves alone what it reads. -/
theorem execRet_comm {s t : State} (f : State → State) (sp : (f s).sp = s.sp)
    (raise : (f s).raise .stackUnderflow 0 = f (s.raise .stackUnderflow 0))
    (pop : (f s).dropTop.jump ((f s).stackAt (s.sp.toNat - 1)) = f (s.dropTop.jump (s.stackAt (s.sp.toNat - 1))))
    (h : execRet s = .next t) : execRet (f s) = .next (f t) := by
  rcases Nat.eq_zero_or_pos s.sp.toNat with empty | occupied
  · obtain rfl := Host.Outcome.next.inj ((execRet_empty empty).symm.trans h)
    rw [execRet_empty (s := f s) (sp ▸ empty), raise]
  rcases Nat.lt_or_ge 16 s.sp.toNat with above | bound
  · nomatch (execRet_above above).symm.trans h
  · obtain rfl := Host.Outcome.next.inj ((execRet_top occupied bound).symm.trans h)
    rw [execRet_top (s := f s) (sp ▸ occupied) (sp ▸ bound), sp, pop]

/-- CALL goes along with a change `f` of the state that leaves alone what it reads. -/
theorem execCall_comm {s t : State} {nnn : Addr12} (f : State → State) (sp : (f s).sp = s.sp)
    (raise : (f s).raise .stackOverflow 0 = f (s.raise .stackOverflow 0))
    (push : ((f s).push ((f s).pc + 2)).jump (zextAddr nnn) = f ((s.push (s.pc + 2)).jump (zextAddr nnn)))
    (h : execCall nnn s = .next t) : execCall nnn (f s) = .next (f t) := by
  rcases Nat.lt_or_ge s.sp.toNat 16 with room | full
  · obtain rfl := Host.Outcome.next.inj ((execCall_room room nnn).symm.trans h)
    rw [execCall_room (s := f s) (sp ▸ room), push]
  · obtain rfl := Host.Outcome.next.inj ((execCall_full full nnn).symm.trans h)
    rw [execCall_full (s := f s) (sp ▸ full), raise]

/-- `s` with other bytes of memory listed. -/
def State.withCells (s : State) (cells : List Host.Cell) : State := { s with mem := { s.mem with cells := cells } }

theorem exec_withCells {i : Instr} {s t : State} (cells : List Host.Cell) (other : reachesMemory i = false)
    (h : exec i s = .next t) : exec i (s.withCells cells) = .next (t.withCells cells) := by
  cases i with
  | ret => exact execRet_comm (State.withCells · cells) rfl rfl rfl h
  | call nnn => exact execCall_comm (State.withCells · cells) rfl rfl rfl h
  | drw x y n | ldB x | stRegs x | ldRegs x => exact Bool.noConfusion other
  | _ =>
    obtain rfl := Host.Outcome.next.inj h
    rfl

/-- Settles O35: of the state's memory these instructions read the font's base at most. -/
theorem otherInstructionsDoNotReachMemory : Obligations.OtherInstructionsDoNotReachMemory := by
  unfold Obligations.OtherInstructionsDoNotReachMemory
  intro i s t cells other h
  have kept : t.mem = s.mem := by
    by_contra ne
    rcases (exec_effect h).mem_writer ne with ⟨x, rfl⟩ | ⟨x, rfl⟩ <;> exact Bool.noConfusion other
  exact ⟨kept, (exec_withCells cells other h).trans (by rw [State.withCells, kept])⟩

theorem State.ifInRange_setST (s : State) (base count : Nat) (b : Byte) {done done' : State} (h : done' = done.setST b) :
    (s.setST b).ifInRange base count done' = (s.ifInRange base count done).setST b := by
  subst h
  unfold State.ifInRange
  split <;> rfl

theorem State.setRegsFrom_setST (s : State) (k : Nat) (bs : List Byte) (b : Byte) :
    (s.setST b).setRegsFrom k bs = (s.setRegsFrom k bs).setST b := by
  induction bs generalizing s k with
  | nil => rfl
  | cons v bs ih => exact ih (s.setV (BitVec.ofNat 4 k) v) (k + 1)

/-- Settles O38: every instruction but LD ST goes along with a change of ST. -/
theorem noInstructionReadsSoundTimer : Obligations.NoInstructionReadsSoundTimer := by
  unfold Obligations.NoInstructionReadsSoundTimer
  intro i s t b h other
  change exec i (s.setST b) = .next (t.setST b)
  cases i with
  | ret => exact execRet_comm (State.setST · b) rfl rfl rfl h
  | call nnn => exact execCall_comm (State.setST · b) rfl rfl rfl h
  | ldST x => exact absurd rfl (other x)
  | drw x y n | ldB x | stRegs x =>
    obtain rfl := Host.Outcome.next.inj h
    exact congrArg Host.Outcome.next (s.ifInRange_setST s.base _ b rfl)
  | ldRegs x =>
    obtain rfl := Host.Outcome.next.inj h
    exact congrArg Host.Outcome.next
      (s.ifInRange_setST s.base _ b (congrArg State.advance (s.setRegsFrom_setST 0 _ b)))
  | _ =>
    obtain rfl := Host.Outcome.next.inj h
    rfl

/-! ### Display (R165 to R170) -/

/-- The state after a draw that completes (R166). -/
def State.drawn (s : State) (vx vy : RegIdx) (n : Nibble) : State :=
  ((s.showFb (s.rasterSprite vx vy n).fb).setV regF (flagOf (s.rasterSprite vx vy n).hit)).advance

section
variable {s : State} {vx vy : RegIdx} {n : Nibble}

theorem exec_drw_inRange (h : n.toNat = 0 ∨ s.I.toNat + n.toNat ≤ 4096) :
    exec (.drw vx vy n) s = .next (s.drawn vx vy n) :=
  congrArg Host.Outcome.next (State.ifInRange_ok h _)

theorem exec_drw_outOfRange (rows : 0 < n.toNat) (h : 4096 < s.I.toNat + n.toNat) :
    exec (.drw vx vy n) s = .next (s.raise .addressOutOfRange (max s.I.toNat 4096)) :=
  congrArg Host.Outcome.next (State.ifInRange_error rows h _)

theorem State.pixel_drawn (x : Fin 64) (y : Fin 32) :
    FrameBuffer.pixel (s.drawn vx vy n).fb x y = (FrameBuffer.pixel s.fb x y ^^ s.drwBit vx vy n x y) :=
  (s.rasterSprite_spec vx vy n).1 x y

theorem State.getV_drawn (r : RegIdx) :
    (s.drawn vx vy n).getV r = if r = regF then flagOf (s.rasterSprite vx vy n).hit else s.getV r :=
  State.getV_setV _ regF r _

/-- VF after a draw is the collision (R168). -/
theorem State.getV_regF_drawn_iff : (s.drawn vx vy n).getV 0xF#4 = 1 ↔ s.drwHits vx vy n := by
  rw [State.getV_drawn, if_pos rfl, ← (s.rasterSprite_spec vx vy n).2]
  cases (s.rasterSprite vx vy n).hit <;> decide

theorem State.getV_regF_drawn_zero (h : ¬ s.drwHits vx vy n) : (s.drawn vx vy n).getV 0xF#4 = 0 := by
  rw [← (s.rasterSprite_spec vx vy n).2, Bool.not_eq_true] at h
  rw [State.getV_drawn, if_pos rfl, h]
  rfl

/-- A draw that leaves VX and VY as they were leaves the sprite where it was (R169). -/
theorem State.drwBit_drawn (keepsX : (s.drawn vx vy n).getV vx = s.getV vx)
    (keepsY : (s.drawn vx vy n).getV vy = s.getV vy) (x : Fin 64) (y : Fin 32) :
    (s.drawn vx vy n).drwBit vx vy n x y = s.drwBit vx vy n x y := by
  rw [State.drwBit, keepsX, keepsY]
  rfl

end

/-- Settles O41: in range the draw by the closed form of the raster engine, out of range the fault. -/
theorem drawXorsTheSprite : Obligations.DrawXorsTheSprite := by
  unfold Obligations.DrawXorsTheSprite
  intro vx vy n s
  constructor
  · intro inRange
    exact ⟨s.drawn vx vy n, exec_drw_inRange (by omega), rfl, State.pixel_drawn, State.getV_regF_drawn_iff.2,
      State.getV_regF_drawn_zero, fun r other => State.getV_drawn r |>.trans (if_neg other)⟩
  · intro rows outOfRange
    exact exec_drw_outOfRange rows (by omega)

/-- Settles O42: the second draw XORs the same bits again, and it hits where the first lit a pixel. -/
theorem drawingTwiceRestores : Obligations.DrawingTwiceRestores := by
  unfold Obligations.DrawingTwiceRestores
  intro vx vy n s t running h completed keepsX keepsY
  have inRange : n.toNat = 0 ∨ s.I.toNat + n.toNat ≤ 4096 := by
    by_contra out
    have halts := exec_drw_outOfRange (s := s) (vx := vx) (vy := vy) (n := n) (by omega) (by omega)
    obtain rfl := Host.Outcome.next.inj (halts.symm.trans h)
    exact RunState.noConfusion completed
  obtain rfl := Host.Outcome.next.inj ((exec_drw_inRange inRange).symm.trans h)
  have sameBit := State.drwBit_drawn keepsX keepsY
  refine ⟨(s.drawn vx vy n).drawn vx vy n, exec_drw_inRange inRange, FrameBuffer.ext_pixel fun x y => ?_, ?_⟩
  · rw [State.pixel_drawn, sameBit, State.pixel_drawn, Bool.xor_assoc, Bool.xor_self, Bool.xor_false]
  · rw [State.getV_regF_drawn_iff, State.drwHits]
    refine exists₂_congr fun x y => ?_
    rw [sameBit, State.pixel_drawn]
    cases FrameBuffer.pixel s.fb x y <;> cases s.drwBit vx vy n x y <;> decide

/-- Settles O43: a sprite of no rows is in range and the raster engine leaves the frame buffer and finds no hit. -/
theorem drawOfZeroRows : Obligations.DrawOfZeroRows := by
  unfold Obligations.DrawOfZeroRows
  intro vx vy s
  exact ⟨s.drawn vx vy 0x0#4, exec_drw_inRange (.inl rfl), rfl, State.getV_drawn⟩

/-- Settles O40: the cleared frame buffer is shown, and no register is written. -/
theorem clearScreenTurnsEveryPixelOff : Obligations.ClearScreenTurnsEveryPixelOff := by
  unfold Obligations.ClearScreenTurnsEveryPixelOff
  intro s
  exact ⟨(s.showFb FrameBuffer.clear).advance, rfl, rfl, FrameBuffer.pixel_clear⟩

/-! ### Keypad (R36, R180 to R183) -/

theorem State.skipIf_eq (s : State) (cond : Bool) :
    s.skipIf cond = { s with pc := s.pc + if cond = true then 4 else 2 } := by
  cases cond <;> rfl

theorem State.skipIf_not_eq (s : State) (cond : Bool) :
    s.skipIf (!cond) = { s with pc := s.pc + if cond = true then 2 else 4 } := by
  cases cond <;> rfl

/-- Settles O44: both skip on the level of the key that the low nibble of VX names. -/
theorem keySkipsReadTheKeypad : Obligations.KeySkipsReadTheKeypad := by
  unfold Obligations.KeySkipsReadTheKeypad
  intro x k s named
  have key : lowNibble (s.getV x) = k := BitVec.eq_of_toNat_eq ((lowNibble_toNat _).trans named)
  exact ⟨congrArg Host.Outcome.next (key ▸ s.skipIf_eq _), congrArg Host.Outcome.next (key ▸ s.skipIf_not_eq _)⟩

theorem zextKey_toNat (k : KeyIdx) : (zextKey k).toNat = k.toNat := BitVec.toNat_setWidth_of_le (by decide)

/-- A key press as a step, of a key that is up (R36, R223). -/
theorem step_keyPress {s : State} {k : KeyIdx} (hnext : s.nextUp = .keyPress k) (started : s.started = true)
    (up : s.keyDown k = false) : step s = .next (s.popEvent.keyPressed k) := by
  rw [step_eq_runEvent, hnext]
  exact keyPressEvent_enabled (s := s.popEvent) started up

theorem State.keyDown_keyPressed (s : State) (k j : KeyIdx) :
    (s.keyPressed k).keyDown j = if j = k then true else s.keyDown j := by
  unfold State.keyPressed
  split <;> exact s.keyDown_setKey k j true

/-- The press that ends a key wait writes the key levels, the latched register and the run state (R182). -/
theorem State.keyPressed_completes {s : State} {x : RegIdx} (waiting : s.run = .awaitKey x) (k : KeyIdx) :
    s.keyPressed k = { s with keys := (s.keyPressed k).keys, V := (s.keyPressed k).V, run := .running } ∧
      ((s.keyPressed k).getV x).toNat = k.toNat ∧ ∀ r, r ≠ x → (s.keyPressed k).getV r = s.getV r := by
  rw [State.keyPressed_waiting waiting]
  have written (r : RegIdx) : (((s.setKey k true).setV x (zextKey k)).setRun .running).getV r =
      if r = x then zextKey k else s.getV r := (s.setKey k true).getV_setV x r (zextKey k)
  refine ⟨rfl, ?_, fun r ne => (written r).trans (if_neg ne)⟩
  rw [written, if_pos rfl, zextKey_toNat]

/-- Settles O45: LD Vx, K writes run and pc, and the press completes the wait. -/
theorem keyWaitBeginsAndCompletes : Obligations.KeyWaitBeginsAndCompletes := by
  unfold Obligations.KeyWaitBeginsAndCompletes
  intro x s
  refine ⟨rfl, fun k es started up => ?_⟩
  let waiting : State := { s with run := .awaitKey x, pc := s.pc + 2, schedule := es }
  obtain ⟨frame, value, others⟩ := State.keyPressed_completes (s := waiting) rfl k
  exact ⟨waiting.keyPressed k, step_keyPress rfl started up, frame, value, others⟩

/-- Settles O46: the press moves its key's level and completes a wait, or changes nothing else. -/
theorem keyPressCompletesTheWait : Obligations.KeyPressCompletesTheWait := by
  unfold Obligations.KeyPressCompletesTheWait
  intro k s hnext started up
  refine ⟨s.popEvent.keyPressed k, step_keyPress hnext started up, s.popEvent.keyDown_keyPressed k, ?_, ?_⟩
  · exact fun x waiting => State.keyPressed_completes (s := s.popEvent) waiting k
  · intro notWaiting
    rw [State.keyPressed_notWaiting (s := s.popEvent) notWaiting]
    rfl

/-- Settles O48: the release is one write of a key level. -/
theorem keyReleaseChangesOneKey : Obligations.KeyReleaseChangesOneKey := by
  unfold Obligations.KeyReleaseChangesOneKey
  intro k s hnext started down
  have released : step s = .next (s.popEvent.setKey k false) := by
    rw [step_eq_runEvent, hnext]
    exact keyReleaseEvent_enabled (s := s.popEvent) started down
  exact ⟨_, released, rfl, fun j => s.popEvent.keyDown_setKey k j false⟩

/-! ### Timers and host (R218, R240 to R244) -/

/-- Settles O52: by induction on n, one tick at a time. -/
theorem ticksCountDownToZero : Obligations.TicksCountDownToZero := by
  unfold Obligations.TicksCountDownToZero
  intro n es s started
  induction n generalizing s with
  | zero => exact ⟨_, rfl, rfl, rfl, rfl⟩
  | succ n ih =>
    obtain ⟨t, runs, frame, delay, sound⟩ := ih s.ticked started
    have tick : step { s with schedule := List.replicate (n + 1) Event.tick ++ es } =
        .next { s.ticked with schedule := List.replicate n Event.tick ++ es } := step_tick rfl started
    refine ⟨t, (run_succ_of_next tick n).trans runs, frame, ?_, ?_⟩
    · rw [delay, State.ticked_DT, tickDown_toNat, Nat.sub_sub, Nat.add_comm 1 n]
    · rw [sound, State.ticked_ST, tickDown_toNat, Nat.sub_sub, Nat.add_comm 1 n]

/-- Settles O53: a load that fits is one block write at 0x200. -/
theorem loadCopiesTheImage : Obligations.LoadCopiesTheImage := by
  unfold Obligations.LoadCopiesTheImage
  intro image s hnext stopped notHalted wf fits
  have room : 0x200 + image.length ≤ 4096 := Nat.add_le_add_left fits 0x200
  have loads : step s = .next (s.popEvent.setMem (s.mem.writeBytes 0x200 image)) :=
    (step_load hnext stopped notHalted).trans (congrArg Host.Outcome.next (State.loaded_fits fits s.popEvent))
  exact ⟨_, loads, rfl, s.mem.writeBytes_font 0x200 image, fun _ hk => Memory.read_writeBytes_inside wf room hk,
    fun _ outside => Memory.read_writeBytes_outside wf room outside⟩

/-- Settles O54: the load halts the machine, which start then leaves as it is, and the core idles. -/
theorem oversizedImageNeverStarts : Obligations.OversizedImageNeverStarts := by
  unfold Obligations.OversizedImageNeverStarts
  intro image s hnext stopped notHalted large
  have refused := State.loaded_tooLarge (image := image) (by omega) s.popEvent
  refine ⟨_, (step_load hnext stopped notHalted).trans (congrArg Host.Outcome.next refused), rfl, ?_, ?_⟩
  · intro start
    rw [step_start start stopped, State.startedByHost_halted rfl]
  · exact fun core => step_core_idle core (.inl stopped)

/-- Settles O55: reset is a step from every state, and start releases a core that no load has halted. -/
theorem resetDiscardsAllState : Obligations.ResetDiscardsAllState := by
  unfold Obligations.ResetDiscardsAllState
  constructor
  · exact fun s hnext => step_reset hnext
  · intro s hnext stopped notHalted
    rw [step_start hnext stopped, State.startedByHost_notHalted (s := s.popEvent) notHalted]

/-- Outside the font table an unwritten byte is 0 (R41). -/
theorem Font.resetByte_outside {f : Font} {a : Nat} (outside : ¬ within f.base.toNat 80 a) : f.resetByte a = 0 :=
  if_neg outside

/-- Settles O56: the fields are those of State.reset, and each glyph is read off the default font. -/
theorem resetStateHoldsTheListedValues : Obligations.ResetStateHoldsTheListedValues := by
  unfold Obligations.ResetStateHoldsTheListedValues
  have noRegister (r : RegIdx) : State.reset.getV r = 0 := by simp [State.getV, State.reset, Vector.get_eq_getElem]
  have noEntry (k : Nat) : State.reset.stackAt k = 0 := by
    simp only [State.stackAt, State.reset, Vector.getElem?_replicate]
    split <;> rfl
  have noKey (k : KeyIdx) : State.reset.keyDown k = false := by simp [State.keyDown, State.reset, Vector.get_eq_getElem]
  exact ⟨noRegister, rfl, rfl, rfl, noEntry, rfl, rfl, FrameBuffer.pixel_clear, noKey, rfl, rfl, rfl, rfl,
    by decide, by decide, by decide, by decide, by decide, by decide, by decide, by decide, by decide, by decide,
    by decide, by decide, by decide, by decide, by decide, by decide, fun _ => Font.resetByte_outside (f := Font.default)⟩

end Sys2Proof.Machine
